-- ==== Sys2Proof/Word.lean ====
section
/-! DEFINITION. The words of the device: 32-bit words, 64-bit lengths and counters, bytes (00_scope.md R7, R10). -/

namespace Sys2Proof

/-- A 32-bit word, bit 0 least significant (00_scope.md R7, R10). -/
abbrev Word := BitVec 32

/-- A 64-bit length or block counter (10_state.md R46, R48, R49). -/
abbrev DWord := BitVec 64

/-- A byte, an unsigned value 0 to 255 (00_scope.md R10, 20_memory.md R84). -/
abbrev Byte := BitVec 8

/-- The message memory as data: the bytes that differ from what power-on left there, each with its address
(20_memory.md R85). The operations over it and its canonical form stand in Machine/Ops.lean. -/
abbrev Memory := List Host.Cell

end Sys2Proof
end

