-- ==== Sys2Proof/Syntax.lean ====
section
/-! DEFINITION. The syntax of the device: the commands (spec/opcode_table.json), the registers of the register map,
the HOST's transactions and their bus encodings, and the two agents. -/

namespace Sys2Proof

/-- The five commands of the opcode map (30_encoding.md R112), one constructor per row of spec/opcode_table.json.
No command has an operand (R111). -/
inductive Instr where
  /-- 0x00000000, 40_commands.md R151. -/
  | nop
  /-- 0x00000001, 40_commands.md R153. -/
  | init
  /-- 0x00000002, 40_commands.md R155. -/
  | compress
  /-- 0x00000003, 40_commands.md R157. -/
  | hash
  /-- 0x00000004, 40_commands.md R159. -/
  | clear
deriving DecidableEq, Repr

/-- Why a command word is illegal (30_encoding.md R113). The device treats both alike (40_commands.md R152). -/
inductive IllegalWord where
  /-- RSV (bits 31:4) is not zero. -/
  | reservedBits
  /-- RSV is zero and OP (bits 3:0) is 5 to 15. -/
  | reservedOpcode
deriving DecidableEq, Repr

/-- The registers of the register space (10_state.md R57), under the names of 30_encoding.md R120. -/
inductive Reg where
  | id
  | ctrl
  | cmd
  | status
  | msgLenLo
  | msgLenHi
  | memSize
  | blkLo
  | blkHi
  | nblkLo
  | nblkHi
  | h (i : Fin 8)
  | wv (i : Fin 8)
  | m (t : Fin 16)
  | w (j : Fin 64)
deriving DecidableEq, Repr

/-- The HOST's transactions (30_encoding.md R120). -/
inductive Transaction where
  /-- `RD off`: read of the 32-bit register at offset `off`. -/
  | rd (off : Nat)
  /-- `WR off, v`: write of the 32-bit register at offset `off`. -/
  | wr (off : Nat) (v : Word)
  /-- `MRB a`: read of the message-memory byte at address `a`. -/
  | mrb (a : Nat)
  /-- `MWB a, v`: write of the message-memory byte at address `a`. -/
  | mwb (a : Nat) (v : Byte)
deriving DecidableEq, Repr

/-- The two address spaces (20_memory.md R88). -/
inductive Space where
  | reg
  | mem
deriving DecidableEq, Repr

/-- What a bus access asks for: a read, or a write of a data word. -/
inductive BusOp where
  | read
  | write (data : Word)
deriving DecidableEq, Repr

/-- One access on the HOST's bus, as the bus encoding of 30_encoding.md R120 writes it: (space, width in bits,
address, data). Raw: an access that breaks the host contract (60_exceptions.md R300) is also one of these. -/
structure BusAccess where
  space : Space
  width : Nat
  addr  : Nat
  op    : BusOp
deriving DecidableEq, Repr

/-- How a bus access can break the host contract: the bullets of 60_exceptions.md R300. -/
inductive BusViolation where
  /-- A register-space access that is not 32 bits wide. -/
  | registerWidth
  /-- A register-space access outside 0x000 to 0xFFF. -/
  | registerRange
  /-- A register-space access at an offset that is not a multiple of 4. -/
  | registerAlignment
  /-- A message-memory access that is not 8 bits wide. -/
  | memoryWidth
  /-- A message-memory access at an address of MSG_MEM_BYTES or more. -/
  | memoryRange
  /-- A message-memory write whose data is not in 0 to 255. -/
  | memoryData
deriving DecidableEq, Repr

/-- What the HOST does in one of its steps: a bus access, one turn of the polling idiom `WAIT` (30_encoding.md R122),
or the reset input (70_reset_and_hazards.md R330, "one step of the HOST agent"). -/
inductive HostEvent where
  | access (b : BusAccess)
  | wait
  | reset
deriving DecidableEq, Repr

/-- The value a read returned to the HOST: "the value read is the line's result" (30_encoding.md R120). -/
inductive Reply where
  /-- The 32-bit value of a register read. -/
  | word (v : Word)
  /-- The byte of a message-memory read. -/
  | byte (v : Byte)
deriving DecidableEq, Repr

/-- The two agents (00_scope.md R3). -/
inductive Agent where
  | host
  | engine
deriving DecidableEq, Repr, Inhabited

end Sys2Proof
end

