-- ==== Sys2Proof/Config.lean ====
section
/-! DEFINITION. What an implementation fixes (the OPEN parameters of 92_eei_decisions.md) and the one free value
of the model (the interleaving of the two agents). Constants without a body: nothing can be proved about their
value, so what is proved of them holds for every value. -/

namespace Sys2Proof

/-- The parameters of one device (00_scope.md R9), which a model takes as an argument. `step` has no argument but
the state, so State carries them; no step writes them (logs 5 and 6). -/
structure Params where
  /-- MSG_MEM_BYTES, the byte size of the message memory: 1 to 2^32 − 1, so not 0 (`Params.wf`). -/
  msgMemBytes : Word
  /-- MSGMEM_INIT, the message memory at power-on (70_reset_and_hazards.md R333): byte p of the list is the byte at
  address p, and an address past the list's end holds 0x00, so that every array of bytes is some list (log 6). -/
  msgMemInit : List Byte
deriving DecidableEq, Repr

/-- The law of the parameters: 1 ≤ MSG_MEM_BYTES (≤ 2^32 − 1 is the type's). -/
def Params.wf (p : Params) : Bool := p.msgMemBytes != 0

/-- MSG_MEM_BYTES less 1, any of 0 to 2^32 − 2 (log 5). -/
opaque Config.msgMemBytesLessOne : Fin 4294967295

/-- MSGMEM_INIT, any bytes (log 6). -/
opaque Config.msgMemInit : List Byte

/-- The parameters of the device that State.reset describes. -/
def Config.params : Params where
  msgMemBytes := BitVec.ofNat 32 (Config.msgMemBytesLessOne.val + 1)
  msgMemInit := Config.msgMemInit

/-- The free value of the interleaving: which agent takes the step when both can and State's `turns` does not say
(00_scope.md R16: "Steps of the two agents interleave in any order"; log 3). Applied to State's counter `tick`. -/
opaque Config.schedule : Nat → Agent

end Sys2Proof
end

