-- ==== Sys2Proof/Machine/State.lean ====
section
/-! DEFINITION. The state of the machine as plain data (10_state.md R56), the reasons a step can stop, and the state
after reset. -/

namespace Sys2Proof.Machine

/-- STATUS.MODE (10_state.md R42): the kind of the last accepted COMPRESS or HASH command. -/
inductive Mode where
  | compress
  | hash
deriving DecidableEq, Repr

/-- STATUS.PHASE (10_state.md R43); "Values 5, 6 and 7 are never held" (log 11). -/
inductive Phase where
  | idle
  | load
  | expand
  | round
  | fold
deriving DecidableEq, Repr

/-- The error codes of STATUS.ERR (60_exceptions.md R290); "6 to 15 are never written" (10_state.md R41; log 11). -/
inductive ErrCode where
  /-- 0, NONE. -/
  | none
  /-- 1, LENGTH_OVERFLOW. -/
  | lengthOverflow
  /-- 2, MSG_RANGE. -/
  | msgRange
  /-- 3, ILLEGAL_CMD. -/
  | illegalCmd
  /-- 4, BUSY_CMD. -/
  | busyCmd
  /-- 5, WRITE_WHILE_BUSY. -/
  | writeWhileBusy
deriving DecidableEq, Repr

/-- The eight working variables (10_state.md R31). -/
structure WorkVars where
  a : Word
  b : Word
  c : Word
  d : Word
  e : Word
  f : Word
  g : Word
  h : Word
deriving DecidableEq, Repr

/-- The complete state of one device (10_state.md R56: "Nothing else is state"). -/
structure Device where
  /-- Hash state H[0..7] (R30). -/
  H      : Vector Word 8
  /-- Working variables wv.a .. wv.h (R31). -/
  wv     : WorkVars
  /-- Message schedule W[0..63] (R32). -/
  W      : Vector Word 64
  /-- Block buffer M[0..15] (R33). -/
  M      : Vector Word 16
  /-- Message length in bytes (R46). -/
  msgLen : DWord
  /-- CTRL.IE, the interrupt enable (R36). -/
  ie     : Bool
  /-- STATUS.BUSY (R39). -/
  busy   : Bool
  /-- STATUS.DONE (R40). -/
  done   : Bool
  /-- STATUS.ERR (R41). -/
  err    : ErrCode
  /-- STATUS.MODE (R42). -/
  mode   : Mode
  /-- STATUS.PHASE (R43). -/
  phase  : Phase
  /-- STATUS.CNT (R44). -/
  cnt    : BitVec 6
  /-- Index of the block being processed (R48). -/
  blk    : DWord
  /-- Number of blocks of the current command (R49). -/
  nblk   : DWord
  /-- Message memory MSGMEM (20_memory.md R85). -/
  msgmem : Memory
deriving DecidableEq, Repr

/-- The machine: the device, its parameters, and the model's own fields for the HOST and the interleaving. -/
structure State where
  /-- The parameters of the device; no step writes them (logs 5 and 6). -/
  params  : Params
  /-- The device's state. -/
  dev     : Device
  /-- What the HOST does next, oldest first (30_encoding.md R120; log 2). -/
  pending : List HostEvent
  /-- The values the HOST's reads have returned, oldest first (30_encoding.md R120; log 2). -/
  results : List Reply
  /-- Which agent takes each coming step at which both can (00_scope.md R16; log 3). -/
  turns   : List Agent
  /-- How often the free value Config.schedule has been asked, once `turns` is used up (log 3). -/
  tick    : Nat
deriving DecidableEq, Repr

/-- The stuck states of the ENGINE. Each is raised only in a state that no run from a state satisfying
`Sys2Proof.Machine.MachineInv` reaches, so each is safe (log 8). -/
inductive Fault where
  /-- Raised by the ENGINE's step when BUSY = 1 and PHASE = IDLE, for which 70_reset_and_hazards.md R345 selects no
  micro-step. Safe. -/
  | noMicroStep
  /-- Raised by EXPAND when CNT < 16, for which 42_schedule.md R226 names no schedule words to read. Safe. -/
  | expandCounter
  /-- Raised by LOAD in HASH mode when MSG_LEN ≥ 2^61, MSG_LEN > MSG_MEM_BYTES or BLK ≥ nblocks(MSG_LEN), for which
  41_padding_framing.md R195, R196 and 20_memory.md R84 define no framed word. Safe. -/
  | frameRange
deriving DecidableEq, Repr

/-- What the model gives no meaning. -/
inductive Refusal where
  /-- A command of the opcode table without a meaning. No arm of `exec` raises it. Safe. -/
  | notModelled (mnemonic : String)
  /-- Raised by the HOST's step on a bus access that breaks the host contract (60_exceptions.md R300: "A model gives
  such a transaction no step"). Safe. -/
  | hostContract (why : BusViolation)
deriving DecidableEq, Repr

/-- The reset values of the device with message memory `mem` (10_state.md R56, 70_reset_and_hazards.md R330). -/
def Device.afterReset (mem : Memory) : Device where
  H      := initialHash
  wv     := { a := 0, b := 0, c := 0, d := 0, e := 0, f := 0, g := 0, h := 0 }
  W      := Vector.replicate 64 0
  M      := Vector.replicate 16 0
  msgLen := 0
  ie     := false
  busy   := false
  done   := false
  err    := .none
  mode   := .compress
  phase  := .idle
  cnt    := 0
  blk    := 0
  nblk   := 0
  msgmem := mem

/-- The machine right after power-on and reset, on a device with parameters p: message memory as MSGMEM_INIT, so
nothing listed (70_reset_and_hazards.md R333); no HOST transaction pending and no turn fixed (logs 1 to 3). -/
def State.resetOf (p : Params) : State where
  params  := p
  dev     := Device.afterReset []
  pending := []
  results := []
  turns   := []
  tick    := 0

/-- The machine right after reset, on the device whose parameters Config leaves open. -/
def State.reset : State := State.resetOf Config.params

end Sys2Proof.Machine
end

