-- ==== Sys2Proof/Machine/Ops.lean ====
section
/-! DEFINITION. The named operations every meaning is built from: word operations, register files, message memory,
raising an error, acknowledging, loading IV, starting the ENGINE, the write guard and reset. -/

namespace Sys2Proof.Machine

/-! Word operations (00_scope.md R12, R13). -/

/-- `shr(x, n)`, the logical right shift (00_scope.md R12). -/
def shr (x : Word) (n : Nat) : Word := x >>> n

/-- `shl(x, n)`, the logical left shift truncated to 32 bits (00_scope.md R12). -/
def shl (x : Word) (n : Nat) : Word := x <<< n

/-- `rotr(x, n)`, the circular right rotation, for 0 < n < 32 (00_scope.md R12). -/
def rotr (x : Word) (n : Nat) : Word := shr x n ||| shl x (32 - n)

/-- `be32(b0, b1, b2, b3)`: the first byte is the most significant (00_scope.md R13). -/
def be32 (b0 b1 b2 b3 : Byte) : Word := b0 ++ b1 ++ b2 ++ b3

/-- `byte_k(x)` for k in 0..3: the bits 31−8k down to 24−8k of x (00_scope.md R13). -/
def byteOf (k : Nat) (x : Word) : Byte := x.extractLsb' (24 - 8 * k) 8

/-- `be64_byte_k(L)` for k in 0..7: the bits 63−8k down to 56−8k of L (00_scope.md R13). -/
def be64Byte (k : Nat) (len : DWord) : Byte := len.extractLsb' (56 - 8 * k) 8

/-! Register files. -/

/-- Element i of a register file. Every use in the model has i in range; past the end it reads 0, which no step
makes use of (log 10). -/
def fileRead {n : Nat} (v : Vector Word n) (i : Nat) : Word := v[i]?.getD 0

/-- The register file with element i written; past the end it is unchanged (log 10). -/
def fileWrite {n : Nat} (v : Vector Word n) (i : Nat) (x : Word) : Vector Word n := v.setIfInBounds i x

/-- The register file with the elements from i on written from a list of words. -/
def fileWriteFrom {n : Nat} (v : Vector Word n) (i : Nat) : List Word → Vector Word n
  | [] => v
  | x :: xs => fileWriteFrom (fileWrite v i x) (i + 1) xs

/-- The working variables by index: `wv[0] = wv.a` up to `wv[7] = wv.h` (10_state.md R31). -/
def WorkVars.get (v : WorkVars) (i : Fin 8) : Word :=
  match i with
  | 0 => v.a
  | 1 => v.b
  | 2 => v.c
  | 3 => v.d
  | 4 => v.e
  | 5 => v.f
  | 6 => v.g
  | 7 => v.h

/-! Message memory. -/

/-- What an unlisted address of the message memory reads as: the byte power-on left there (70_reset_and_hazards.md R333:
"it returns the stable byte that is there. The model takes that byte from `MSGMEM_INIT` and does not pick zero"). -/
def powerOnByte (p : Params) (a : Nat) : Byte := p.msgMemInit.getD a 0

/-- `MemRead(a, 1)` (00_scope.md R14, 20_memory.md R84). -/
def memRead (p : Params) (m : Memory) (a : Nat) : Byte :=
  match m with
  | [] => powerOnByte p a
  | (b, w) :: rest => if a = b then w else memRead p rest a

/-- The cell to list for the byte v at address a: none where the byte is what an unlisted address reads as. -/
def memCell (p : Params) (a : Nat) (v : Byte) : Memory :=
  if v = powerOnByte p a then [] else [(a, v)]

/-- `MemWrite(a, 1, v)` (00_scope.md R14, 20_memory.md R85), keeping the canonical form. -/
def memWrite (p : Params) (m : Memory) (a : Nat) (v : Byte) : Memory :=
  match m with
  | [] => memCell p a v
  | (b, w) :: rest =>
    if a < b then memCell p a v ++ (b, w) :: rest
    else if a = b then memCell p a v ++ rest
    else (b, w) :: memWrite p rest a v

/-- The addresses of a message memory rise strictly. -/
def memRising : Memory → Bool
  | [] => true
  | [_] => true
  | (a, _) :: (b, w) :: rest => decide (a < b) && memRising ((b, w) :: rest)

/-- The canonical form of a message memory: addresses strictly rising and below MSG_MEM_BYTES, and no entry equal to
what an unlisted address reads as. -/
def Memory.wf (p : Params) (m : Memory) : Bool :=
  memRising m && m.all fun c => decide (c.1 < p.msgMemBytes.toNat) && c.2 != powerOnByte p c.1

/-! Errors, acknowledgement and the start of a command. -/

/-- `raise Error(code)`: the one way an error is taken. It writes ERR and nothing else, and is no trap
(00_scope.md R14, 60_exceptions.md R291, R310). -/
def Device.raiseError (code : ErrCode) (d : Device) : Device := { d with err := code }

/-- The acknowledgement of a completion or an error, which is all the hardware has in place of a return from an
exception (60_exceptions.md R312): DONE <- 0, ERR <- 0 (40_commands.md R159). -/
def Device.clearFlags (d : Device) : Device := { d with done := false, err := .none }

/-- `for i in 0..7: H[i] <- IV[i]` (40_commands.md R153, R157). -/
def Device.loadIV (d : Device) : Device := { d with H := initialHash }

/-- The acceptance of COMPRESS or HASH but for H (40_commands.md R155, R157): the ENGINE starts at LOAD of block 0. -/
def Device.start (mode : Mode) (nblk : DWord) (d : Device) : Device :=
  { d with mode := mode, blk := 0, nblk := nblk, done := false, err := .none, busy := true, phase := .load, cnt := 0 }

/-- The guard of a HOST write (10_state.md R53, 20_memory.md R85): while BUSY = 1 the write is dropped and raises 5;
otherwise it is made. -/
def Device.guarded (write : Device → Device) (d : Device) : Device :=
  if d.busy then d.raiseError .writeWhileBusy else write d

/-- The busy rule of the commands (40_commands.md R150): while BUSY = 1 a command is dropped and raises 4. -/
def Device.whenIdle (act : Device → Device) (d : Device) : Device :=
  if d.busy then d.raiseError .busyCmd else act d

/-- Reset (70_reset_and_hazards.md R330): every element at its reset value; MSGMEM is not changed. -/
def Device.reset (d : Device) : Device := Device.afterReset d.msgmem

/-! The machine around the device. -/

/-- The machine with its device changed to d. -/
def State.withDev (s : State) (d : Device) : State := { s with dev := d }

/-- The machine after the HOST's read returned a value (30_encoding.md R120). -/
def State.reply (s : State) (r : Reply) : State := { s with results := s.results ++ [r] }

/-- The machine with the HOST's events replaced. -/
def State.withPending (s : State) (es : List HostEvent) : State := { s with pending := es }

end Sys2Proof.Machine
end

