-- ==== Sys2Proof/Machine/Framing.lean ====
section
/-! DEFINITION. The padding-and-framing stage and block decomposition (41_padding_framing.md): the padded stream as the
spec defines it, and its hardware form computed byte by byte. -/

namespace Sys2Proof.Machine

/-- The number of blocks of a message of n bytes (41_padding_framing.md R192). -/
def nblocks (n : Nat) : Nat := (n + 8) / 64 + 1

/-- The byte length of the padded stream (41_padding_framing.md R192). -/
def paddedLength (n : Nat) : Nat := 64 * nblocks n

/-- The bit length of a message of n bytes, as the 64-bit length field holds it (41_padding_framing.md R190, R191). -/
def bitLength (n : Nat) : DWord := BitVec.ofNat 64 (8 * n)

/-- `FrameByte(n, p)`: byte p of the padded stream of n message bytes, which `msg` reads (41_padding_framing.md R195). -/
def frameByte (msg : Nat → Byte) (n p : Nat) : Byte :=
  if p < n then msg p
  else if p = n then 0x80
  else if p < paddedLength n - 8 then 0x00
  else be64Byte (p - (paddedLength n - 8)) (bitLength n)

/-- `FrameWord(n, b, t)`: word t of block b (41_padding_framing.md R196). -/
def frameWord (msg : Nat → Byte) (n b t : Nat) : Word :=
  be32 (frameByte msg n (64 * b + 4 * t)) (frameByte msg n (64 * b + 4 * t + 1))
    (frameByte msg n (64 * b + 4 * t + 2)) (frameByte msg n (64 * b + 4 * t + 3))

/-- Block b of the padded stream, its sixteen words in order (41_padding_framing.md R196). -/
def frameBlock (msg : Nat → Byte) (n b : Nat) : Vector Word 16 :=
  let w := frameWord msg n b
  #v[w 0, w 1, w 2, w 3, w 4, w 5, w 6, w 7, w 8, w 9, w 10, w 11, w 12, w 13, w 14, w 15]

/-! The padded stream as a list, which the hardware never stores (10_state.md R55): for claims. -/

/-- The byte at position i of a message. -/
def messageByte (m : List Byte) (i : Nat) : Byte := m.getD i 0

/-- The padded stream in bytes: the message, 0x80, P − n − 9 bytes 0x00, and the 8 bytes of the bit length, most
significant first (41_padding_framing.md R194). -/
def paddedBytes (m : List Byte) : List Byte :=
  m ++ [0x80] ++ List.replicate (paddedLength m.length - m.length - 9) 0x00 ++
    (List.range 8).map fun k => be64Byte k (bitLength m.length)

/-- The bits of a bit vector, most significant first (41_padding_framing.md R190: "from bit 7 down to bit 0"). -/
def bitsMsbFirst {w : Nat} (x : BitVec w) : List Bool := (List.range w).map x.getMsbD

/-- The bits of a byte list in stream order (41_padding_framing.md R190). -/
def bitsOfBytes (bs : List Byte) : List Bool := bs.flatMap bitsMsbFirst

/-- The padded stream in bits with z zero bits: the message bits, one 1 bit, z 0 bits and the 64-bit length
(41_padding_framing.md R190). -/
def paddedBits (m : List Byte) (z : Nat) : List Bool :=
  bitsOfBytes m ++ [true] ++ List.replicate z false ++ bitsMsbFirst (bitLength m.length)

end Sys2Proof.Machine
end

