-- ==== Sys2Proof/Machine/Commands.lean ====
section
/-! DEFINITION. The meanings of the five commands and of an illegal command word (40_commands.md R150 to R159). Each is
a whole HOST step; an accepted COMPRESS or HASH only starts the ENGINE. -/

namespace Sys2Proof.Machine

/-- NOP: no effect in any state (40_commands.md R151). -/
def execNop (s : State) : Host.Outcome State Fault Refusal := .next s

/-- INIT's effect when idle: H <- IV, DONE <- 0, ERR <- 0 (40_commands.md R153). -/
def Device.initialise (d : Device) : Device := d.loadIV.clearFlags

/-- INIT (40_commands.md R153). -/
def execInit (s : State) : Host.Outcome State Fault Refusal :=
  .next (s.withDev (s.dev.whenIdle Device.initialise))

/-- COMPRESS: the acceptance (40_commands.md R155). -/
def execCompress (s : State) : Host.Outcome State Fault Refusal :=
  .next (s.withDev (s.dev.whenIdle (Device.start .compress 1)))

/-- HASH's checks and acceptance when idle (40_commands.md R157): LENGTH_OVERFLOW before MSG_RANGE. -/
def Device.acceptHash (p : Params) (d : Device) : Device :=
  if 2 ^ 61 ≤ d.msgLen.toNat then d.raiseError .lengthOverflow
  else if p.msgMemBytes.toNat < d.msgLen.toNat then d.raiseError .msgRange
  else d.loadIV.start .hash (BitVec.ofNat 64 (nblocks d.msgLen.toNat))

/-- HASH (40_commands.md R157). -/
def execHash (s : State) : Host.Outcome State Fault Refusal :=
  .next (s.withDev (s.dev.whenIdle (Device.acceptHash s.params)))

/-- CLEAR (40_commands.md R159). -/
def execClear (s : State) : Host.Outcome State Fault Refusal :=
  .next (s.withDev (s.dev.whenIdle Device.clearFlags))

/-- A word that is no command (40_commands.md R152): error 3 when idle, error 4 when busy. -/
def execIllegal (s : State) : Host.Outcome State Fault Refusal :=
  .next (s.withDev (s.dev.whenIdle (Device.raiseError .illegalCmd)))

end Sys2Proof.Machine
end

