-- ==== Sys2Proof/WellFormed.lean ====
section
/-! DEFINITION. Which syntax is well formed: the host contract of the transactions (60_exceptions.md R300). -/

namespace Sys2Proof

/-- A command is a whole word with no operand (30_encoding.md R110, R111), so every command is well formed. -/
def Instr.wf : Instr → Bool
  | .nop => true
  | .init => true
  | .compress => true
  | .hash => true
  | .clear => true

/-- The offsets a register access may use: the multiples of 4 in 0x000 to 0xFFC (20_memory.md R87). -/
def offsetWf (off : Nat) : Bool := off % 4 == 0 && decide (off < 0x1000)

/-- The host contract of a transaction (60_exceptions.md R300; 20_memory.md R85 to R87). That MWB's data is a byte is
the type's. -/
def Transaction.wf (p : Params) : Transaction → Bool
  | .rd off => offsetWf off
  | .wr off _ => offsetWf off
  | .mrb a => decide (a < p.msgMemBytes.toNat)
  | .mwb a _ => decide (a < p.msgMemBytes.toNat)

end Sys2Proof
end

