-- ==== Sys2Proof/Decode.lean ====
section
/-! DEFINITION. Decoding and encoding: command words (30_encoding.md R110 to R115), register offsets (10_state.md
R57) and bus accesses (30_encoding.md R120, 60_exceptions.md R300). -/

namespace Sys2Proof

/-! Command words. -/

/-- The OP field of a command word, bits 3:0 (30_encoding.md R110). -/
def opField (v : Word) : BitVec 4 := v.extractLsb' 0 4

/-- The RSV field of a command word, bits 31:4 (30_encoding.md R110). -/
def rsvField (v : Word) : BitVec 28 := v.extractLsb' 4 28

/-- The decoding procedure, total on every 32-bit word (30_encoding.md R115). -/
def decode (v : Word) : Except IllegalWord Instr :=
  if v = 0x00000000#32 then .ok .nop
  else if rsvField v ≠ 0#28 then .error .reservedBits
  else if opField v = 1#4 then .ok .init
  else if opField v = 2#4 then .ok .compress
  else if opField v = 3#4 then .ok .hash
  else if opField v = 4#4 then .ok .clear
  else .error .reservedOpcode

/-- The command word of a command (30_encoding.md R112, R121). -/
def encode : Instr → Word
  | .nop => 0x00000000#32
  | .init => 0x00000001#32
  | .compress => 0x00000002#32
  | .hash => 0x00000003#32
  | .clear => 0x00000004#32

/-- The 32-bit command word whose low `nbits` bits are those of `w` and whose other bits are 0. A command is written in
one 32-bit access (30_encoding.md R110), so there is no byte order to lay it out in (20_memory.md R83). -/
def tableWord (nbits w : Nat) : Word := BitVec.ofNat 32 (w % 2 ^ nbits)

/-- What the decoder reads from a row of spec/opcode_table.json; a word that needs more than the 32 bits of a command
is no command (log 12). -/
def decodeTableWord (nbits w : Nat) : Option Instr :=
  if w % 2 ^ nbits < 2 ^ 32 then (decode (tableWord nbits w)).toOption else none

/-! Register offsets. -/

/-- The offset of a register (10_state.md R30 to R33, R57). -/
def Reg.offset : Reg → Nat
  | .id => 0x000
  | .ctrl => 0x004
  | .cmd => 0x008
  | .status => 0x00C
  | .msgLenLo => 0x010
  | .msgLenHi => 0x014
  | .memSize => 0x018
  | .blkLo => 0x01C
  | .blkHi => 0x020
  | .nblkLo => 0x024
  | .nblkHi => 0x028
  | .h i => 0x040 + 4 * i.val
  | .wv i => 0x060 + 4 * i.val
  | .m t => 0x080 + 4 * t.val
  | .w j => 0x100 + 4 * j.val

/-- The single registers in offset order, from offset 0x000 on (10_state.md R57). -/
def interfaceRegs : List Reg :=
  [.id, .ctrl, .cmd, .status, .msgLenLo, .msgLenHi, .memSize, .blkLo, .blkHi, .nblkLo, .nblkHi]

/-- The register at word index k of the register space, that is at offset 4k; none where the offset is unmapped
(10_state.md R50, R57). -/
def Reg.ofIndex (k : Nat) : Option Reg :=
  if k < 16 then interfaceRegs[k]?
  else if h : k - 16 < 8 then some (.h ⟨k - 16, h⟩)
  else if h : k - 24 < 8 then some (.wv ⟨k - 24, h⟩)
  else if h : k - 32 < 16 then some (.m ⟨k - 32, h⟩)
  else if k < 64 then none
  else if h : k - 64 < 64 then some (.w ⟨k - 64, h⟩)
  else none

/-- The register at an offset; none where the offset is unmapped or not a multiple of 4. -/
def Reg.ofOffset (off : Nat) : Option Reg :=
  if off % 4 = 0 then Reg.ofIndex (off / 4) else none

/-! Bus accesses. -/

/-- The first clause of the host contract that a bus access breaks, or none (60_exceptions.md R300). The order of the
clauses only chooses the name of the refusal (log 9). -/
def BusAccess.violation (p : Params) (b : BusAccess) : Option BusViolation :=
  match b.space with
  | .reg =>
    if b.width ≠ 32 then some .registerWidth
    else if 0x1000 ≤ b.addr then some .registerRange
    else if b.addr % 4 ≠ 0 then some .registerAlignment
    else none
  | .mem =>
    if b.width ≠ 8 then some .memoryWidth
    else if p.msgMemBytes.toNat ≤ b.addr then some .memoryRange
    else
      match b.op with
      | .read => none
      | .write data => if 255 < data.toNat then some .memoryData else none

/-- The transaction a bus access that keeps the host contract stands for (30_encoding.md R120). -/
def BusAccess.transaction (b : BusAccess) : Transaction :=
  match b.space, b.op with
  | .reg, .read => .rd b.addr
  | .reg, .write data => .wr b.addr data
  | .mem, .read => .mrb b.addr
  | .mem, .write data => .mwb b.addr (data.setWidth 8)

/-- Decoding a bus access, total: a transaction, or the clause of the host contract it breaks. -/
def BusAccess.decode (p : Params) (b : BusAccess) : Except BusViolation Transaction :=
  match b.violation p with
  | some why => .error why
  | none => .ok b.transaction

/-- The bus encoding of a transaction: (space, width, address, data) (30_encoding.md R120). -/
def Transaction.encode : Transaction → BusAccess
  | .rd off => { space := .reg, width := 32, addr := off, op := .read }
  | .wr off v => { space := .reg, width := 32, addr := off, op := .write v }
  | .mrb a => { space := .mem, width := 8, addr := a, op := .read }
  | .mwb a v => { space := .mem, width := 8, addr := a, op := .write (v.setWidth 32) }

/-- The bus access that issues the command word v: `WR CMD, v` (30_encoding.md R110). -/
def commandAccess (v : Word) : BusAccess := (Transaction.wr Reg.cmd.offset v).encode

end Sys2Proof
end

