-- ==== Sys2Proof/Machine/Flags.lean ====
section
/-! DEFINITION. The flags: the interrupt output and the STATUS word (10_state.md R38, R54; 60_exceptions.md R305). -/

namespace Sys2Proof.Machine

/-- The 4-bit value of an error code (60_exceptions.md R290). -/
def ErrCode.bits : ErrCode → BitVec 4
  | .none => 0
  | .lengthOverflow => 1
  | .msgRange => 2
  | .illegalCmd => 3
  | .busyCmd => 4
  | .writeWhileBusy => 5

/-- The 3-bit value of a phase (10_state.md R43). -/
def Phase.bits : Phase → BitVec 3
  | .idle => 0
  | .load => 1
  | .expand => 2
  | .round => 3
  | .fold => 4

/-- The bit value of a mode (10_state.md R42). -/
def Mode.bit : Mode → BitVec 1
  | .compress => 0
  | .hash => 1

/-- The interrupt output: `IRQ = CTRL.IE AND (STATUS.DONE = 1 OR STATUS.ERR != 0)` (60_exceptions.md R305). A function
of the state, not state of its own. -/
def Device.irq (d : Device) : Bool := d.ie && (d.done || d.err != .none)

/-- The STATUS word: BUSY 0, DONE 1, ERR 7:4, PHASE 10:8, MODE 11, IRQ 12, CNT 21:16, the other bits 0
(10_state.md R38). -/
def Device.statusWord (d : Device) : Word :=
  0#10 ++ d.cnt ++ 0#3 ++ BitVec.ofBool d.irq ++ d.mode.bit ++ d.phase.bits ++ d.err.bits ++ 0#2 ++
    BitVec.ofBool d.done ++ BitVec.ofBool d.busy

/-- The CTRL word: IE in bit 0, bits 31:1 read 0 (10_state.md R36). -/
def Device.ctrlWord (d : Device) : Word := 0#31 ++ BitVec.ofBool d.ie

end Sys2Proof.Machine
end

