-- ==== Sys2Proof/Machine/Operands.lean ====
section
/-! DEFINITION. Reading and writing the register space (10_state.md R30 to R50, 20_memory.md R87), but for CMD, whose
write issues a command (Machine/Bus.lean). -/

namespace Sys2Proof.Machine

/-- The low word of a 64-bit register, bits 31:0 (10_state.md R46, R48, R49). -/
def lowWord (x : DWord) : Word := x.extractLsb' 0 32

/-- The high word of a 64-bit register, bits 63:32 (10_state.md R46, R48, R49). -/
def highWord (x : DWord) : Word := x.extractLsb' 32 32

/-- The value a register reads as (10_state.md R30 to R49). -/
def Device.regValue (p : Params) (d : Device) : Reg → Word
  | .id => idValue
  | .ctrl => d.ctrlWord
  | .cmd => 0
  | .status => d.statusWord
  | .msgLenLo => lowWord d.msgLen
  | .msgLenHi => highWord d.msgLen
  | .memSize => p.msgMemBytes
  | .blkLo => lowWord d.blk
  | .blkHi => highWord d.blk
  | .nblkLo => lowWord d.nblk
  | .nblkHi => highWord d.nblk
  | .h i => fileRead d.H i.val
  | .wv i => d.wv.get i
  | .m t => fileRead d.M t.val
  | .w j => fileRead d.W j.val

/-- A read of the register space at an offset: unmapped offsets read 0 (10_state.md R50, 20_memory.md R87). -/
def Device.readOffset (p : Params) (d : Device) (off : Nat) : Word :=
  match Reg.ofOffset off with
  | none => 0
  | some r => d.regValue p r

/-- MSG_LEN with its low half written (10_state.md R46). -/
def Device.setMsgLenLo (v : Word) (d : Device) : Device := { d with msgLen := highWord d.msgLen ++ v }

/-- MSG_LEN with its high half written (10_state.md R46). -/
def Device.setMsgLenHi (v : Word) (d : Device) : Device := { d with msgLen := v ++ lowWord d.msgLen }

/-- H[i] written (10_state.md R30). -/
def Device.setH (i : Fin 8) (v : Word) (d : Device) : Device := { d with H := fileWrite d.H i.val v }

/-- M[t] written (10_state.md R33). -/
def Device.setM (t : Fin 16) (v : Word) (d : Device) : Device := { d with M := fileWrite d.M t.val v }

/-- CTRL written: `CTRL.IE <- v[0]`, the other bits ignored (10_state.md R36). -/
def Device.setCtrl (v : Word) (d : Device) : Device := { d with ie := v.getLsbD 0 }

/-- One byte of the message memory written (20_memory.md R85). -/
def Device.setByte (p : Params) (a : Nat) (v : Byte) (d : Device) : Device :=
  { d with msgmem := memWrite p d.msgmem a v }

/-- A HOST write of a register other than CMD: guarded registers under the guard, CTRL at any time, read-only registers
ignored without error (10_state.md R30 to R49, R53, R57). On CMD it is the identity: Machine/Bus.lean issues the
command instead. -/
def Device.writeReg (r : Reg) (v : Word) (d : Device) : Device :=
  match r with
  | .id => d
  | .ctrl => d.setCtrl v
  | .cmd => d
  | .status => d
  | .msgLenLo => d.guarded (Device.setMsgLenLo v)
  | .msgLenHi => d.guarded (Device.setMsgLenHi v)
  | .memSize => d
  | .blkLo => d
  | .blkHi => d
  | .nblkLo => d
  | .nblkHi => d
  | .h i => d.guarded (Device.setH i v)
  | .wv _ => d
  | .m t => d.guarded (Device.setM t v)
  | .w _ => d

end Sys2Proof.Machine
end

