-- ==== Sys2Proof/Machine/Bus.lean ====
section
/-! DEFINITION. The HOST's transactions (30_encoding.md R120, 20_memory.md R85 to R87), the polling idiom (30_encoding.md
R122) and the reset input (70_reset_and_hazards.md R330). -/

namespace Sys2Proof.Machine

/-- A write of the word v to CMD issues the command v (10_state.md R37, 40_commands.md R150). -/
def writeCmd (v : Word) (s : State) : Host.Outcome State Fault Refusal :=
  match decode v with
  | .ok i => exec i s
  | .error _ => execIllegal s

/-- `RD off` (20_memory.md R87): the value is returned to the HOST and the device is unchanged. -/
def transRd (off : Nat) (s : State) : Host.Outcome State Fault Refusal :=
  .next (s.reply (.word (s.dev.readOffset s.params off)))

/-- `WR off, v` (20_memory.md R87): the effect the register's rule gives; unmapped offsets ignore it (10_state.md
R50). -/
def transWr (off : Nat) (v : Word) (s : State) : Host.Outcome State Fault Refusal :=
  match Reg.ofOffset off with
  | none => .next s
  | some .cmd => writeCmd v s
  | some r => .next (s.withDev (s.dev.writeReg r v))

/-- `MRB a` (20_memory.md R86). -/
def transMrb (a : Nat) (s : State) : Host.Outcome State Fault Refusal :=
  .next (s.reply (.byte (memRead s.params s.dev.msgmem a)))

/-- `MWB a, v` (20_memory.md R85). -/
def transMwb (a : Nat) (v : Byte) (s : State) : Host.Outcome State Fault Refusal :=
  .next (s.withDev (s.dev.guarded (Device.setByte s.params a v)))

/-- A transaction of the HOST (30_encoding.md R120). -/
def perform (t : Transaction) (s : State) : Host.Outcome State Fault Refusal :=
  match t with
  | .rd off => transRd off s
  | .wr off v => transWr off v s
  | .mrb a => transMrb a s
  | .mwb a v => transMwb a v s

/-- A bus access: the transaction it encodes, or a refusal where it breaks the host contract (60_exceptions.md R300). -/
def busStep (b : BusAccess) (s : State) : Host.Outcome State Fault Refusal :=
  match b.decode s.params with
  | .ok t => perform t s
  | .error why => .refused (.hostContract why)

/-- One turn of `WAIT` (30_encoding.md R122): `RD STATUS`, and again until the value read has bit 0 (BUSY) = 0. -/
def waitStep (s : State) : Host.Outcome State Fault Refusal :=
  let v := s.dev.readOffset s.params Reg.status.offset
  .next ((s.reply (.word v)).withPending (if v.getLsbD 0 then .wait :: s.pending else s.pending))

/-- The reset input (70_reset_and_hazards.md R330). -/
def resetStep (s : State) : Host.Outcome State Fault Refusal := .next (s.withDev s.dev.reset)

/-- What the HOST does with the event it has come to. -/
def hostEvent (e : HostEvent) (s : State) : Host.Outcome State Fault Refusal :=
  match e with
  | .access b => busStep b s
  | .wait => waitStep s
  | .reset => resetStep s

end Sys2Proof.Machine
end

