-- ==== Sys2Proof/Machine/Schedule.lean ====
section
/-! DEFINITION. The message-schedule expander (42_schedule.md). -/

namespace Sys2Proof.Machine

/-- Small sigma 0 (42_schedule.md R220). -/
def ssig0 (x : Word) : Word := rotr x 7 ^^^ rotr x 18 ^^^ shr x 3

/-- Small sigma 1 (42_schedule.md R221). -/
def ssig1 (x : Word) : Word := rotr x 17 ^^^ rotr x 19 ^^^ shr x 10

/-- The schedule word j ≥ 16 from the words before it (42_schedule.md R223, R226). -/
def scheduleWord (W : Vector Word 64) (j : Nat) : Word :=
  ssig1 (fileRead W (j - 2)) + fileRead W (j - 7) + ssig0 (fileRead W (j - 15)) + fileRead W (j - 16)

/-- The schedule with word j computed (42_schedule.md R226). -/
def expandWord (W : Vector Word 64) (j : Nat) : Vector Word 64 := fileWrite W j (scheduleWord W j)

/-- The schedule with the block's words as its words 0 to 15 (43_compression.md R240). -/
def loadWords (W : Vector Word 64) (B : Vector Word 16) : Vector Word 64 := fileWriteFrom W 0 B.toList

/-- The whole schedule of a block, `expand(B)` (42_schedule.md R223): for claims. -/
def expand (B : Vector Word 16) : Vector Word 64 :=
  (List.range' 16 48).foldl expandWord (loadWords (Vector.replicate 64 0) B)

end Sys2Proof.Machine
end

