-- ==== Sys2Proof/Machine/Compression.lean ====
section
/-! DEFINITION. The compression function and finalization (43_compression.md): one round, the fold, and the pure
functions for claims. -/

namespace Sys2Proof.Machine

/-- Big sigma 1 (43_compression.md R244). -/
def bsig1 (e : Word) : Word := rotr e 6 ^^^ rotr e 11 ^^^ rotr e 25

/-- Big sigma 0 (43_compression.md R245). -/
def bsig0 (a : Word) : Word := rotr a 2 ^^^ rotr a 13 ^^^ rotr a 22

/-- Choose (43_compression.md R246). -/
def ch (e f g : Word) : Word := (e &&& f) ^^^ (~~~e &&& g)

/-- Majority (43_compression.md R247). -/
def maj (a b c : Word) : Word := (a &&& b) ^^^ (a &&& c) ^^^ (b &&& c)

/-- T1 of round j, five terms (43_compression.md R248; 90_conflicts.md C3: no leading e term). -/
def temp1 (W : Vector Word 64) (v : WorkVars) (j : Nat) : Word :=
  v.h + bsig1 v.e + ch v.e v.f v.g + K j + fileRead W j

/-- T2 of a round (43_compression.md R248). -/
def temp2 (v : WorkVars) : Word := bsig0 v.a + maj v.a v.b v.c

/-- The working variables after round j (43_compression.md R248). -/
def roundVars (W : Vector Word 64) (v : WorkVars) (j : Nat) : WorkVars where
  a := temp1 W v j + temp2 v
  b := v.a
  c := v.b
  d := v.c
  e := v.d + temp1 W v j
  f := v.e
  g := v.f
  h := v.g

/-- The working variables seeded from a hash state (43_compression.md R242). -/
def seedVars (H : Vector Word 8) : WorkVars where
  a := fileRead H 0
  b := fileRead H 1
  c := fileRead H 2
  d := fileRead H 3
  e := fileRead H 4
  f := fileRead H 5
  g := fileRead H 6
  h := fileRead H 7

/-- The hash state with the working variables folded in (43_compression.md R252). -/
def foldHash (H : Vector Word 8) (v : WorkVars) : Vector Word 8 :=
  #v[fileRead H 0 + v.a, fileRead H 1 + v.b, fileRead H 2 + v.c, fileRead H 3 + v.d,
     fileRead H 4 + v.e, fileRead H 5 + v.f, fileRead H 6 + v.g, fileRead H 7 + v.h]

/-! Pure functions for claims (43_compression.md, section 5). -/

/-- The 64 rounds of one block, from the hash state h and the schedule W (43_compression.md R260). -/
def rounds (W : Vector Word 64) (h : Vector Word 8) : WorkVars :=
  (List.range 64).foldl (roundVars W) (seedVars h)

/-- `compress(h, B)` (43_compression.md R260). -/
def compress (h : Vector Word 8) (B : Vector Word 16) : Vector Word 8 :=
  foldHash h (rounds (expand B) h)

/-- `compress` folded over the first k blocks of the message of n bytes that `msg` reads, from IV
(43_compression.md R261). -/
def hashBlocks (msg : Nat → Byte) (n k : Nat) : Vector Word 8 :=
  (List.range k).foldl (fun h b => compress h (frameBlock msg n b)) initialHash

/-- `sha256_words(m)` (43_compression.md R261). -/
def sha256Words (m : List Byte) : Vector Word 8 :=
  hashBlocks (messageByte m) m.length (nblocks m.length)

/-- The digest's 32 bytes: `digest_byte(4i + k) = byte_k(H[i])` (43_compression.md R262). -/
def digestBytes (H : Vector Word 8) : List Byte :=
  H.toList.flatMap fun x => [byteOf 0 x, byteOf 1 x, byteOf 2 x, byteOf 3 x]

/-- SHA-256 of a message, as bytes (43_compression.md R261, R262). -/
def sha256 (m : List Byte) : List Byte := digestBytes (sha256Words m)

end Sys2Proof.Machine
end

