-- ==== Sys2Proof/Machine/Engine.lean ====
section
/-! DEFINITION. The ENGINE's micro-steps LOAD, EXPAND, ROUND and FOLD and their selection (42_schedule.md R226,
43_compression.md R240, R248, R252, R254, 70_reset_and_hazards.md R345). -/

namespace Sys2Proof.Machine

/-- The framed LOAD has a block to load: the length precondition holds, the message lies in the message memory and the
block is one of the padded stream (41_padding_framing.md R195, R196, R198; 20_memory.md R84). -/
def Device.frameReady (p : Params) (d : Device) : Bool :=
  decide (d.msgLen.toNat < 2 ^ 61) && decide (d.msgLen.toNat ≤ p.msgMemBytes.toNat) &&
    decide (d.blk.toNat < nblocks d.msgLen.toNat)

/-- The block LOAD brings in: M in COMPRESS mode, the framed block BLK in HASH mode (43_compression.md R240). -/
def Device.sourceBlock (p : Params) (d : Device) : Vector Word 16 :=
  match d.mode with
  | .compress => d.M
  | .hash => frameBlock (memRead p d.msgmem) d.msgLen.toNat d.blk.toNat

/-- W[0..15] written, CNT <- 16, PHASE <- EXPAND (43_compression.md R240). -/
def Device.load (p : Params) (d : Device) : Device :=
  { d with W := loadWords d.W (d.sourceBlock p), cnt := 16, phase := .expand }

/-- LOAD (43_compression.md R240). -/
def Device.microLoad (p : Params) (d : Device) : Except Fault Device :=
  if d.mode = .hash ∧ d.frameReady p = false then .error .frameRange else .ok (d.load p)

/-- Seed (43_compression.md R242). -/
def Device.seed (d : Device) : Device := { d with wv := seedVars d.H }

/-- W[CNT] computed, and CNT moved on, or after the last word the seed and the first round next
(42_schedule.md R226). -/
def Device.expandStep (d : Device) : Device :=
  if d.cnt.toNat < 63 then { d with W := expandWord d.W d.cnt.toNat, cnt := d.cnt + 1 }
  else { d.seed with W := expandWord d.W d.cnt.toNat, cnt := 0, phase := .round }

/-- EXPAND (42_schedule.md R226). -/
def Device.microExpand (d : Device) : Except Fault Device :=
  if d.cnt.toNat < 16 then .error .expandCounter else .ok d.expandStep

/-- ROUND (43_compression.md R248). -/
def Device.microRound (d : Device) : Device :=
  if d.cnt.toNat < 63 then { d with wv := roundVars d.W d.wv d.cnt.toNat, cnt := d.cnt + 1 }
  else { d with wv := roundVars d.W d.wv d.cnt.toNat, cnt := 0, phase := .fold }

/-- Another block of the same message follows (43_compression.md R252): `R.MODE = 1 and R.BLK + 1 < R.NBLK`. -/
def Device.moreBlocks (d : Device) : Bool := d.mode == .hash && decide (d.blk + 1 < d.nblk)

/-- FOLD (43_compression.md R252). -/
def Device.microFold (d : Device) : Device :=
  if d.moreBlocks then { d with H := foldHash d.H d.wv, blk := d.blk + 1, phase := .load }
  else { d with H := foldHash d.H d.wv, busy := false, done := true, phase := .idle }

/-- The micro-step PHASE selects (70_reset_and_hazards.md R345); in PHASE = IDLE there is none (log 8). -/
def Device.micro (p : Params) (d : Device) : Except Fault Device :=
  match d.phase with
  | .idle => .error .noMicroStep
  | .load => d.microLoad p
  | .expand => d.microExpand
  | .round => .ok d.microRound
  | .fold => .ok d.microFold

/-- The ENGINE's step (70_reset_and_hazards.md R345). -/
def engineStep (s : State) : Host.Outcome State Fault Refusal :=
  match s.dev.micro s.params with
  | .ok d => .next (s.withDev d)
  | .error why => .fault why

end Sys2Proof.Machine
end

