-- ==== Sys2Proof/Machine/Agents.lean ====
section
/-! DEFINITION. Which agent takes the next step (00_scope.md R16, 70_reset_and_hazards.md R345), and where a command is
placed so that it is the next thing done. -/

namespace Sys2Proof.Machine

/-- The agent to move and the machine with that choice used up; none when neither has a step: the ENGINE has one while
BUSY = 1 (70_reset_and_hazards.md R345), the HOST while it has something pending. Where both have one, `turns` says
which, and after its end the free value Config.schedule (log 3). -/
def chooseAgent (s : State) : Option (Agent × State) :=
  match s.dev.busy, s.pending with
  | false, [] => none
  | false, _ :: _ => some (.host, s)
  | true, [] => some (.engine, s)
  | true, _ :: _ =>
    match s.turns with
    | a :: rest => some (a, { s with turns := rest })
    | [] => some (Config.schedule s.tick, { s with tick := s.tick + 1 })

/-- The HOST's step: its oldest pending event. -/
def hostStep (s : State) : Host.Outcome State Fault Refusal :=
  match s.pending with
  | [] => .next s
  | e :: rest => hostEvent e (s.withPending rest)

/-- The step of the agent whose turn it is. With no agent to move nothing happens (60_exceptions.md R320; log 4). -/
def agentStep (s : State) : Host.Outcome State Fault Refusal :=
  match chooseAgent s with
  | none => .next s
  | some (.host, s') => hostStep s'
  | some (.engine, s') => engineStep s'

/-- The machine with the command word v as the HOST's next event, and, where the ENGINE could move first, with the HOST's
turn next. -/
def State.placeCommand (s : State) (v : Word) : State :=
  { s with
    pending := .access (commandAccess v) :: s.pending
    turns := if s.dev.busy then .host :: s.turns else s.turns }

end Sys2Proof.Machine
end

