-- ==== Sys2Proof/Machine/Step.lean ====
section
/-! DEFINITION. One step of the machine. -/

namespace Sys2Proof.Machine

/-- One step: one indivisible transition of one agent (00_scope.md R16, 20_memory.md R90). -/
def step (s : State) : Host.Outcome State Fault Refusal := agentStep s

/-- The machine with the command word placed where the next step takes its command from: the HOST's next bus access,
`WR CMD, w` (30_encoding.md R110; log 1). -/
def State.withFetchWord (s : State) (nbits w : Nat) : State := s.placeCommand (tableWord nbits w)

end Sys2Proof.Machine
end

