-- ==== Sys2Proof/Machine/HostProgram.lean ====
section
/-! DEFINITION. The HOST's pseudo-instructions as lists of events (30_encoding.md R121, R122). -/

namespace Sys2Proof.Machine

/-- One transaction as a HOST event. -/
def transact (t : Transaction) : HostEvent := .access t.encode

/-- A command mnemonic: one write of CMD (30_encoding.md R121). -/
def issue (i : Instr) : List HostEvent := [transact (.wr Reg.cmd.offset (encode i))]

/-- `SETLEN n` (30_encoding.md R122). -/
def setLen (n : DWord) : List HostEvent :=
  [transact (.wr Reg.msgLenLo.offset (lowWord n)), transact (.wr Reg.msgLenHi.offset (highWord n))]

/-- `PUTMSG a, b0 .. bk` (30_encoding.md R122). -/
def putMsg (a : Nat) : List Byte → List HostEvent
  | [] => []
  | b :: bs => transact (.mwb a b) :: putMsg (a + 1) bs

/-- Writes of consecutive registers from an offset on. -/
def putWords (off : Nat) : List Word → List HostEvent
  | [] => []
  | w :: ws => transact (.wr off w) :: putWords (off + 4) ws

/-- `PUTBLK w0 .. w15` (30_encoding.md R122). -/
def putBlk (B : Vector Word 16) : List HostEvent := putWords (Reg.m 0).offset B.toList

/-- `PUTH h0 .. h7` (30_encoding.md R122). -/
def putH (h : Vector Word 8) : List HostEvent := putWords (Reg.h 0).offset h.toList

/-- `GETH` (30_encoding.md R122). -/
def getH : List HostEvent := (List.finRange 8).map fun i => transact (.rd (Reg.h i).offset)

end Sys2Proof.Machine
end

