-- ==== Sys2Proof/Safety.lean ====
section
/-! DEFINITION. What counts as a safe run, in the terms the claims use: the invariant of the machine, the ENGINE steps
left of a command, the runs of a command under every interleaving, and what a HOST event may touch. -/

namespace Sys2Proof

/-- The registers a HOST write never changes and never reports (10_state.md R31, R32, R35, R38, R47 to R49). -/
def Reg.readOnly : Reg → Bool
  | .id => true
  | .status => true
  | .memSize => true
  | .blkLo => true
  | .blkHi => true
  | .nblkLo => true
  | .nblkHi => true
  | .wv _ => true
  | .w _ => true
  | .ctrl => false
  | .cmd => false
  | .msgLenLo => false
  | .msgLenHi => false
  | .h _ => false
  | .m _ => false


end Sys2Proof

namespace Sys2Proof.Machine

/-- The invariant of a device with parameters p. -/
structure Device.Inv (p : Params) (d : Device) : Prop where
  /-- The message memory is in canonical form (20_memory.md R85; log 6). -/
  memory : Memory.wf p d.msgmem = true
  /-- `PHASE = IDLE` if and only if `BUSY = 0` (10_state.md R43). -/
  idle : d.phase = .idle ↔ d.busy = false
  /-- In phase EXPAND, 16 ≤ CNT (10_state.md R45; CNT ≤ 63 is its width). -/
  expand : d.phase = .expand → 16 ≤ d.cnt.toNat
  /-- In phases LOAD, FOLD and IDLE, CNT = 0 (10_state.md R45). -/
  counter : d.phase = .load ∨ d.phase = .fold ∨ d.phase = .idle → d.cnt = 0
  /-- While a command runs, DONE = 0 (40_commands.md R160). -/
  running : d.busy = true → d.done = false
  /-- While a command runs, BLK < NBLK (10_state.md R52). -/
  block : d.busy = true → d.blk < d.nblk
  /-- A running COMPRESS has one block (40_commands.md R155). -/
  compress : d.busy = true → d.mode = .compress → d.nblk = 1
  /-- A running HASH passed its checks, and NBLK is the block count of its message (40_commands.md R157). -/
  hash : d.busy = true → d.mode = .hash →
    d.msgLen.toNat < 2 ^ 61 ∧ d.msgLen.toNat ≤ p.msgMemBytes.toNat ∧
      d.nblk = BitVec.ofNat 64 (nblocks d.msgLen.toNat)
  /-- After completion BLK keeps the index of the last block (10_state.md R48). -/
  last : d.done = true → d.blk + 1 = d.nblk

/-- The invariant of the machine: the parameters keep their law and the device its invariant. -/
structure MachineInv (s : State) : Prop where
  /-- 1 ≤ MSG_MEM_BYTES (00_scope.md R9). -/
  params : s.params.wf = true
  device : s.dev.Inv s.params

/-- The ENGINE steps left of the current block (43_compression.md R254, R256). -/
def Device.blockStepsLeft (d : Device) : Nat :=
  match d.phase with
  | .idle => 0
  | .load => 114
  | .expand => (64 - d.cnt.toNat) + 65
  | .round => (64 - d.cnt.toNat) + 1
  | .fold => 1

/-- The ENGINE steps left of the running command: those of the current block and 114 for each block after it
(43_compression.md R256, 40_commands.md R160); none when idle. -/
def Device.stepsLeft (d : Device) : Nat :=
  if d.busy then d.blockStepsLeft + 114 * (d.nblk.toNat - 1 - d.blk.toNat) else 0

/-- The HOST event the next step makes; none where the HOST is not to move. -/
def State.hostNext (s : State) : Option HostEvent :=
  match chooseAgent s with
  | some (.host, s') => s'.pending.head?
  | some (.engine, _) => none
  | none => none

/-- The next step is the ENGINE's. -/
def State.engineNext (s : State) : Bool :=
  match chooseAgent s with
  | some (.engine, _) => true
  | some (.host, _) => false
  | none => false

/-- The next step is the HOST's and is the reset input. -/
def State.resetNext (s : State) : Bool := decide (s.hostNext = some .reset)

/-- `CommandRun k s t`: a run from s to t during which a command is running at every step and no reset lands, in which
the ENGINE takes k steps. HOST steps of any other kind come between them in any order (00_scope.md R16). -/
inductive CommandRun : Nat → State → State → Prop where
  | start (s : State) : CommandRun 0 s s
  | engine {k : Nat} {s u v t : State} : CommandRun k s u → chooseAgent u = some (.engine, v) →
      step u = .next t → CommandRun (k + 1) s t
  | host {k : Nat} {s u v t : State} : CommandRun k s u → u.dev.busy = true →
      chooseAgent u = some (.host, v) → u.resetNext = false → step u = .next t → CommandRun k s t

/-! Who writes what (10_state.md R30 to R49). -/

/-- The HOST event whose step issues the command i (30_encoding.md R121). -/
def commandEvent (i : Instr) : HostEvent := .access (commandAccess (encode i))

/-- The HOST events that write a guarded place (10_state.md R53). -/
inductive GuardedWrite : HostEvent → Prop where
  | msgLenLo (v : Word) : GuardedWrite (transact (.wr Reg.msgLenLo.offset v))
  | msgLenHi (v : Word) : GuardedWrite (transact (.wr Reg.msgLenHi.offset v))
  | h (i : Fin 8) (v : Word) : GuardedWrite (transact (.wr (Reg.h i).offset v))
  | m (t : Fin 16) (v : Word) : GuardedWrite (transact (.wr (Reg.m t).offset v))
  | byte (a : Nat) (v : Byte) : GuardedWrite (transact (.mwb a v))

/-- The step from s to t issues the command i while idle and the device takes it: afterwards the ENGINE runs for
COMPRESS and HASH (40_commands.md R155, R157) and does not for the others (R153, R159). -/
def Accepts (i : Instr) (s t : State) : Prop :=
  s.dev.busy = false ∧ s.hostNext = some (commandEvent i) ∧ t.dev.busy = (i == .compress || i == .hash)

/-- The step from s is the micro-step of the ENGINE in a phase. -/
def EngineIn (ph : Phase) (s : State) : Prop :=
  s.engineNext = true ∧ s.dev.busy = true ∧ s.dev.phase = ph

/-- The step from s is the FOLD of a command's last block (43_compression.md R252). -/
def LastFold (s : State) : Prop := EngineIn .fold s ∧ ¬(s.dev.mode = .hash ∧ s.dev.blk + 1 < s.dev.nblk)

/-- The step from s raises an error code (60_exceptions.md R290, with 40_commands.md R150, R157 and 10_state.md R53). -/
def RaisesError (s : State) : ErrCode → Prop
  | .none => False
  | .lengthOverflow => s.dev.busy = false ∧ s.hostNext = some (commandEvent .hash) ∧ 2 ^ 61 ≤ s.dev.msgLen.toNat
  | .msgRange => s.dev.busy = false ∧ s.hostNext = some (commandEvent .hash) ∧
      s.dev.msgLen.toNat < 2 ^ 61 ∧ s.params.msgMemBytes.toNat < s.dev.msgLen.toNat
  | .illegalCmd => s.dev.busy = false ∧
      ∃ v why, decode v = .error why ∧ s.hostNext = some (.access (commandAccess v))
  | .busyCmd => s.dev.busy = true ∧ ∃ v, decode v ≠ .ok .nop ∧ s.hostNext = some (.access (commandAccess v))
  | .writeWhileBusy => s.dev.busy = true ∧ ∃ e, GuardedWrite e ∧ s.hostNext = some e

/-- Every element of the device's state that differs between s and t was written by the step from s to t, and that step
is one of those the spec names as the element's writers. Reset, which writes all but message memory, is apart. -/
structure OnlyWriters (s t : State) : Prop where
  /-- H[i]: an idle write of it, INIT, an accepted HASH, or FOLD (10_state.md R30). -/
  hashState : ∀ i : Fin 8, t.dev.H[i] ≠ s.dev.H[i] →
    (s.dev.busy = false ∧ s.hostNext = some (transact (.wr (Reg.h i).offset t.dev.H[i]))) ∨
      Accepts .init s t ∨ Accepts .hash s t ∨ EngineIn .fold s
  /-- wv: the Seed at the end of EXPAND, or ROUND (10_state.md R31). -/
  workVars : t.dev.wv ≠ s.dev.wv → (EngineIn .expand s ∧ s.dev.cnt.toNat = 63) ∨ EngineIn .round s
  /-- W[0..15]: LOAD (10_state.md R32). -/
  scheduleLow : ∀ j : Nat, j < 16 → fileRead t.dev.W j ≠ fileRead s.dev.W j → EngineIn .load s
  /-- W[16..63]: the EXPAND of that word (10_state.md R32). -/
  scheduleHigh : ∀ j : Nat, 16 ≤ j → fileRead t.dev.W j ≠ fileRead s.dev.W j →
    EngineIn .expand s ∧ s.dev.cnt.toNat = j
  /-- M[k]: an idle write of it (10_state.md R33). -/
  blockBuffer : ∀ k : Fin 16, t.dev.M[k] ≠ s.dev.M[k] →
    s.dev.busy = false ∧ s.hostNext = some (transact (.wr (Reg.m k).offset t.dev.M[k]))
  /-- The low half of MSG_LEN: an idle write of MSG_LEN_LO (10_state.md R46). -/
  lengthLow : lowWord t.dev.msgLen ≠ lowWord s.dev.msgLen →
    s.dev.busy = false ∧ s.hostNext = some (transact (.wr Reg.msgLenLo.offset (lowWord t.dev.msgLen)))
  /-- The high half of MSG_LEN: an idle write of MSG_LEN_HI (10_state.md R46). -/
  lengthHigh : highWord t.dev.msgLen ≠ highWord s.dev.msgLen →
    s.dev.busy = false ∧ s.hostNext = some (transact (.wr Reg.msgLenHi.offset (highWord t.dev.msgLen)))
  /-- Message memory: an idle MWB, of its one byte (20_memory.md R85). -/
  memory : t.dev.msgmem ≠ s.dev.msgmem → s.dev.busy = false ∧
    ∃ a v, s.hostNext = some (transact (.mwb a v)) ∧ t.dev.msgmem = memWrite s.params s.dev.msgmem a v
  /-- CTRL.IE: a write of CTRL (10_state.md R36). -/
  interruptEnable : t.dev.ie ≠ s.dev.ie →
    ∃ v, s.hostNext = some (transact (.wr Reg.ctrl.offset v)) ∧ t.dev.ie = v.getLsbD 0
  /-- BUSY rises: an accepted COMPRESS or HASH (10_state.md R39). -/
  busyRises : s.dev.busy = false → t.dev.busy = true → Accepts .compress s t ∨ Accepts .hash s t
  /-- BUSY falls: the FOLD of the last block (10_state.md R39). -/
  busyFalls : s.dev.busy = true → t.dev.busy = false → LastFold s
  /-- DONE rises: the FOLD that clears BUSY (10_state.md R40). -/
  doneRises : s.dev.done = false → t.dev.done = true → LastFold s ∧ t.dev.busy = false
  /-- DONE falls: INIT, CLEAR, or an accepted COMPRESS or HASH (10_state.md R40). -/
  doneFalls : s.dev.done = true → t.dev.done = false →
    Accepts .init s t ∨ Accepts .compress s t ∨ Accepts .hash s t ∨ Accepts .clear s t
  /-- ERR is cleared: INIT, CLEAR, or an accepted COMPRESS or HASH (10_state.md R41). -/
  errorCleared : s.dev.err ≠ .none → t.dev.err = .none →
    Accepts .init s t ∨ Accepts .compress s t ∨ Accepts .hash s t ∨ Accepts .clear s t
  /-- ERR is written: a HOST event that raises just that code (10_state.md R41). -/
  errorRaised : t.dev.err ≠ s.dev.err → t.dev.err ≠ .none → RaisesError s t.dev.err
  /-- MODE: an accepted COMPRESS (0) or HASH (1) (10_state.md R42). -/
  mode : t.dev.mode ≠ s.dev.mode →
    (Accepts .compress s t ∧ t.dev.mode = .compress) ∨ (Accepts .hash s t ∧ t.dev.mode = .hash)
  /-- PHASE: an accepted COMPRESS or HASH (to LOAD), LOAD, the last EXPAND or ROUND, or FOLD (10_state.md R43,
  43_compression.md R254). -/
  phase : t.dev.phase ≠ s.dev.phase →
    ((Accepts .compress s t ∨ Accepts .hash s t) ∧ t.dev.phase = .load) ∨ EngineIn .load s ∨
      ((EngineIn .expand s ∨ EngineIn .round s) ∧ s.dev.cnt.toNat = 63) ∨ EngineIn .fold s
  /-- CNT: an accepted COMPRESS or HASH (to 0), LOAD, EXPAND or ROUND (10_state.md R44, 43_compression.md R254). -/
  counter : t.dev.cnt ≠ s.dev.cnt →
    ((Accepts .compress s t ∨ Accepts .hash s t) ∧ t.dev.cnt = 0) ∨
      EngineIn .load s ∨ EngineIn .expand s ∨ EngineIn .round s
  /-- BLK: an accepted COMPRESS or HASH (to 0), or the FOLD before another block (10_state.md R48). -/
  block : t.dev.blk ≠ s.dev.blk →
    ((Accepts .compress s t ∨ Accepts .hash s t) ∧ t.dev.blk = 0) ∨
      (EngineIn .fold s ∧ s.dev.mode = .hash ∧ s.dev.blk + 1 < s.dev.nblk ∧ t.dev.blk = s.dev.blk + 1)
  /-- NBLK: an accepted COMPRESS (1) or HASH (the block count of the message) (10_state.md R49). -/
  blockCount : t.dev.nblk ≠ s.dev.nblk →
    (Accepts .compress s t ∧ t.dev.nblk = 1) ∨
      (Accepts .hash s t ∧ t.dev.nblk = BitVec.ofNat 64 (nblocks s.dev.msgLen.toNat))

/-! The message and the primes. -/

/-- The bytes of the message HASH digests: `MSGMEM[0 .. n−1]` with n = MSG_LEN (20_memory.md R85). -/
def Device.message (p : Params) (d : Device) : List Byte :=
  (List.range d.msgLen.toNat).map (memRead p d.msgmem)

/-- The first 64 primes p_0 = 2 to p_63 = 311 (44_constants.md R282). -/
def firstPrimes : List Nat :=
  [2, 3, 5, 7, 11, 13, 17, 19, 23, 29, 31, 37, 41, 43, 47, 53] ++
  [59, 61, 67, 71, 73, 79, 83, 89, 97, 101, 103, 107, 109, 113, 127, 131] ++
  [137, 139, 149, 151, 157, 163, 167, 173, 179, 181, 191, 193, 197, 199, 211, 223] ++
  [227, 229, 233, 239, 241, 251, 257, 263, 269, 271, 277, 281, 283, 293, 307, 311]

end Sys2Proof.Machine
end

