-- ==== Sys2Proof/Certificates/Slice0/Obligations.lean ====
section
/-! DEFINITION. The statements for the provers, each from the numbered rules of spec/. -/

open Sys2Proof Sys2Proof.Machine

/-! ## Encoding -/

/-- 30_encoding.md R112, R113: the five command words, written out bit by bit from the opcode map, decode to their
commands, and words next to them are illegal. -/
def Obligations.CommandWordsDecodeAsTheOpcodeMapSays : Prop :=
  decode 0b00000000000000000000000000000000#32 = .ok .nop ∧
  decode 0b00000000000000000000000000000001#32 = .ok .init ∧
  decode 0b00000000000000000000000000000010#32 = .ok .compress ∧
  decode 0b00000000000000000000000000000011#32 = .ok .hash ∧
  decode 0b00000000000000000000000000000100#32 = .ok .clear ∧
  decode 0b00000000000000000000000000000101#32 = .error .reservedOpcode ∧
  decode 0b00000000000000000000000000001111#32 = .error .reservedOpcode ∧
  decode 0b00000000000000000000000000010000#32 = .error .reservedBits ∧
  decode 0b10000000000000000000000000000011#32 = .error .reservedBits

/-- 30_encoding.md R112, R120, 10_state.md R57: decoding and encoding are inverse to each other in both directions, for
the command words, the register offsets and the bus encodings of the transactions. -/
def Obligations.DecodeAndEncodeAgree : Prop :=
  (∀ (v : Word) (i : Instr), decode v = .ok i ↔ v = encode i) ∧
  (∀ (off : Nat) (r : Reg), Reg.ofOffset off = some r ↔ off = r.offset) ∧
  (∀ (p : Params) (b : BusAccess) (t : Transaction), b.decode p = .ok t ↔ t.wf p = true ∧ b = t.encode)

/-- 30_encoding.md R113, 40_commands.md R152: a word is illegal exactly when RSV is not zero or OP is 5 to 15, and writing
an illegal word changes nothing but ERR: 3 when idle, 4 when busy; the interrupt output then equals CTRL.IE. -/
def Obligations.IllegalWordsRaiseAnErrorAndDoNothingElse : Prop :=
  (∀ v : Word, (∃ why, decode v = .error why) ↔ (rsvField v ≠ 0 ∨ 5 ≤ (opField v).toNat)) ∧
  (∀ (s : State) (v : Word) (why : IllegalWord), decode v = .error why →
    ∃ t, writeCmd v s = .next t ∧
      t = s.withDev { s.dev with err := if s.dev.busy then .busyCmd else .illegalCmd } ∧ t.dev.irq = s.dev.ie)

/-- 10_state.md R50: exactly three ranges of offsets are unmapped; a read of one returns 0 and a write is ignored without
error. -/
def Obligations.UnmappedOffsetsReadZeroAndIgnoreWrites : Prop :=
  ∀ off : Nat, off % 4 = 0 → off < 0x1000 →
    (Reg.ofOffset off = none ↔
      (0x02C ≤ off ∧ off ≤ 0x03C) ∨ (0x0C0 ≤ off ∧ off ≤ 0x0FC) ∨ (0x200 ≤ off ∧ off ≤ 0xFFC)) ∧
    ((0x02C ≤ off ∧ off ≤ 0x03C) ∨ (0x0C0 ≤ off ∧ off ≤ 0x0FC) ∨ (0x200 ≤ off ∧ off ≤ 0xFFC) →
      ∀ (s : State) (v : Word), s.dev.readOffset s.params off = 0 ∧ transWr off v s = .next s)

/-- 60_exceptions.md R300, 20_memory.md R89: a bus access is refused exactly when it breaks the host contract, and a
transaction that keeps it is made. R300 refuses a message-memory access wider than 8 bits; that a width below 8 is refused
too, where R89 only says that the accesses are 8 bits wide, is the model's choice (log 16). -/
def Obligations.BusAccessesOutsideTheContractAreRefused : Prop :=
  ∀ (b : BusAccess) (s : State),
    ((∃ why, busStep b s = .refused (.hostContract why)) ↔
      (b.space = .reg ∧ (b.width ≠ 32 ∨ b.addr % 4 ≠ 0 ∨ 0x1000 ≤ b.addr)) ∨
      (b.space = .mem ∧ (b.width ≠ 8 ∨ s.params.msgMemBytes.toNat ≤ b.addr ∨
        ∃ data, b.op = .write data ∧ 255 < data.toNat))) ∧
    (∀ t : Transaction, t.wf s.params = true → b = t.encode → busStep b s = perform t s)

/-! ## Which agent moves, and the command a step runs -/

/-- 70_reset_and_hazards.md R345, 00_scope.md R16: a busy ENGINE has a step, an idle one has none, and where both agents
have one either may come next: the one `turns` names, and after its end one of the two, which nothing says (the free value
of log 3). With neither nothing happens (the model's choice, log 4). -/
def Obligations.EitherAgentMayComeNext : Prop :=
  (∀ s : State, s.dev.busy = false → s.pending = [] → step s = .next s) ∧
  (∀ (s : State) (e : HostEvent) (rest : List HostEvent), s.dev.busy = false → s.pending = e :: rest →
    step s = hostEvent e (s.withPending rest)) ∧
  (∀ s : State, s.dev.busy = true → s.pending = [] → step s = engineStep s) ∧
  (∀ (s : State) (e : HostEvent) (rest : List HostEvent) (ts : List Agent), s.dev.busy = true →
    s.pending = e :: rest → s.turns = .host :: ts →
    step s = hostEvent e { s with pending := rest, turns := ts }) ∧
  (∀ (s : State) (e : HostEvent) (rest : List HostEvent) (ts : List Agent), s.dev.busy = true →
    s.pending = e :: rest → s.turns = .engine :: ts → step s = engineStep { s with turns := ts }) ∧
  (∀ (s : State) (e : HostEvent) (rest : List HostEvent), s.dev.busy = true → s.pending = e :: rest → s.turns = [] →
    step s = hostEvent e { s with pending := rest, tick := s.tick + 1 } ∨
      step s = engineStep { s with tick := s.tick + 1 })

/-- 30_encoding.md R110, R121: when the HOST moves next and its next access writes the command word v, the step is the
command v decodes to, made with that access gone; for an illegal word it is the illegal command. -/
def Obligations.StepRunsTheDecodedCommand : Prop :=
  ∀ (s s' : State) (v : Word) (rest : List HostEvent), chooseAgent s = some (.host, s') →
    s'.pending = .access (commandAccess v) :: rest →
    (∀ i, decode v = .ok i → step s = exec i (s'.withPending rest)) ∧
    (∀ why, decode v = .error why → step s = execIllegal (s'.withPending rest))

/-- A placed command word is the very next thing the machine does, in every state, and nothing else of the state is
changed by placing it (the model's interface; log 1). -/
def Obligations.PlacedCommandRunsNext : Prop :=
  ∀ (s : State) (i : Instr), step (s.withFetchWord 32 (encode i).toNat) = exec i s

/-! ## Commands -/

/-- 40_commands.md R150: the dispatch of a command write and the order of its checks. -/
def Obligations.CommandDispatchChecksInOrder : Prop :=
  ∀ (s : State) (v : Word),
    (decode v = .ok .nop → writeCmd v s = .next s) ∧
    (decode v ≠ .ok .nop → s.dev.busy = true → writeCmd v s = .next (s.withDev { s.dev with err := .busyCmd })) ∧
    (∀ why, decode v = .error why → s.dev.busy = false →
      writeCmd v s = .next (s.withDev { s.dev with err := .illegalCmd })) ∧
    (∀ i, decode v = .ok i → s.dev.busy = false → writeCmd v s = exec i s)

/-- 40_commands.md R151: NOP has no effect in any state, busy or idle, and no other word with OP = 0 is NOP. -/
def Obligations.NopHasNoEffect : Prop :=
  encode .nop = 0x00000000 ∧ (∀ s : State, exec .nop s = .next s) ∧
  (∀ v : Word, opField v = 0 → rsvField v ≠ 0 → ∃ why, decode v = .error why)

/-- 40_commands.md R153: INIT, idle, loads IV into H and clears DONE and ERR, and changes nothing else; busy, it raises 4
and changes nothing else; INIT after INIT is the same as one INIT. -/
def Obligations.InitLoadsTheInitialHash : Prop :=
  encode .init = 0x00000001 ∧
  (∀ s : State, s.dev.busy = false →
    exec .init s = .next (s.withDev { s.dev with H := initialHash, done := false, err := .none })) ∧
  (∀ s : State, s.dev.busy = true → exec .init s = .next (s.withDev { s.dev with err := .busyCmd })) ∧
  (∀ s t : State, s.dev.busy = false → exec .init s = .next t → exec .init t = .next t)

/-- 40_commands.md R155, the acceptance: COMPRESS, idle, is always accepted and only starts the ENGINE; busy, it raises 4
and changes nothing else. -/
def Obligations.CompressIsAcceptedWhenIdle : Prop :=
  encode .compress = 0x00000002 ∧
  (∀ s : State, s.dev.busy = false →
    exec .compress s = .next (s.withDev { s.dev with
      mode := .compress, blk := 0, nblk := 1, done := false, err := .none, busy := true, phase := .load, cnt := 0 })) ∧
  (∀ s : State, s.dev.busy = true → exec .compress s = .next (s.withDev { s.dev with err := .busyCmd }))

/-- 40_commands.md R157, the checks and the acceptance: HASH, idle, rejects a length of 2^61 or more with 1, then a message
longer than the message memory with 2, and otherwise loads IV and starts the ENGINE; busy, it raises 4. Nothing else
changes. -/
def Obligations.HashChecksTheLengthThenStarts : Prop :=
  encode .hash = 0x00000003 ∧
  (∀ s : State, s.dev.busy = false → 2 ^ 61 ≤ s.dev.msgLen.toNat →
    exec .hash s = .next (s.withDev { s.dev with err := .lengthOverflow })) ∧
  (∀ s : State, s.dev.busy = false → s.dev.msgLen.toNat < 2 ^ 61 →
    s.params.msgMemBytes.toNat < s.dev.msgLen.toNat →
    exec .hash s = .next (s.withDev { s.dev with err := .msgRange })) ∧
  (∀ s : State, s.dev.busy = false → s.dev.msgLen.toNat < 2 ^ 61 →
    s.dev.msgLen.toNat ≤ s.params.msgMemBytes.toNat →
    exec .hash s = .next (s.withDev { s.dev with
      H := initialHash, mode := .hash, blk := 0, nblk := BitVec.ofNat 64 ((s.dev.msgLen.toNat + 8) / 64 + 1),
      done := false, err := .none, busy := true, phase := .load, cnt := 0 })) ∧
  (∀ s : State, s.dev.busy = true → exec .hash s = .next (s.withDev { s.dev with err := .busyCmd }))

/-- 40_commands.md R159: CLEAR, idle, clears DONE and ERR and changes nothing else, so the interrupt output falls; busy,
it raises 4 and changes nothing else. -/
def Obligations.ClearAcknowledges : Prop :=
  encode .clear = 0x00000004 ∧
  (∀ s : State, s.dev.busy = false → ∃ t, exec .clear s = .next t ∧
    t = s.withDev { s.dev with done := false, err := .none } ∧ t.dev.irq = false) ∧
  (∀ s : State, s.dev.busy = true → exec .clear s = .next (s.withDev { s.dev with err := .busyCmd }))

/-- The frame of the five commands (40_commands.md, section 2): each completes in every state, and leaves the parameters,
the HOST's side, wv, W, M, MSG_LEN, CTRL.IE and every byte of message memory as they were; only INIT and HASH may change
H; NOP, INIT and CLEAR leave the sequencer. -/
def Obligations.CommandsKeepTheirFrame : Prop :=
  ∀ (i : Instr) (s : State), ∃ t, exec i s = .next t ∧
    t.params = s.params ∧ t.pending = s.pending ∧ t.results = s.results ∧ t.turns = s.turns ∧ t.tick = s.tick ∧
    t.dev.wv = s.dev.wv ∧ t.dev.W = s.dev.W ∧ t.dev.M = s.dev.M ∧ t.dev.msgLen = s.dev.msgLen ∧ t.dev.ie = s.dev.ie ∧
    (∀ a : Nat, memRead t.params t.dev.msgmem a = memRead s.params s.dev.msgmem a) ∧
    (i = .nop ∨ i = .compress ∨ i = .clear → t.dev.H = s.dev.H) ∧
    (i = .nop ∨ i = .init ∨ i = .clear → t.dev.busy = s.dev.busy ∧ t.dev.mode = s.dev.mode ∧
      t.dev.phase = s.dev.phase ∧ t.dev.cnt = s.dev.cnt ∧ t.dev.blk = s.dev.blk ∧ t.dev.nblk = s.dev.nblk)

/-! ## The register space and the message memory -/

/-- 10_state.md R57: what each offset of the register map reads as. -/
def Obligations.RegisterMapReadsEveryRegister : Prop :=
  ∀ (p : Params) (d : Device),
    d.readOffset p 0x000 = 0x53484132 ∧ d.readOffset p 0x004 = (if d.ie then 1 else 0) ∧
    d.readOffset p 0x008 = 0 ∧ d.readOffset p 0x00C = d.statusWord ∧
    d.readOffset p 0x014 ++ d.readOffset p 0x010 = d.msgLen ∧ d.readOffset p 0x018 = p.msgMemBytes ∧
    d.readOffset p 0x020 ++ d.readOffset p 0x01C = d.blk ∧ d.readOffset p 0x028 ++ d.readOffset p 0x024 = d.nblk ∧
    (∀ i : Fin 8, d.readOffset p (0x040 + 4 * i.val) = d.H[i]) ∧
    [0x060, 0x064, 0x068, 0x06C, 0x070, 0x074, 0x078, 0x07C].map (d.readOffset p) =
      [d.wv.a, d.wv.b, d.wv.c, d.wv.d, d.wv.e, d.wv.f, d.wv.g, d.wv.h] ∧
    (∀ t : Fin 16, d.readOffset p (0x080 + 4 * t.val) = d.M[t]) ∧
    (∀ j : Fin 64, d.readOffset p (0x100 + 4 * j.val) = d.W[j])

/-- 10_state.md R38, with the codes of 60_exceptions.md R290, 10_state.md R42 and R43: every bit of the STATUS word, which
offset 0x00C reads, which a write there does not change, and which is 0 after reset. -/
def Obligations.StatusWordHasItsLayout : Prop :=
  (∀ (s : State) (v : Word), perform (.rd 0x00C) s = .next (s.reply (.word s.dev.statusWord)) ∧
    perform (.wr 0x00C v) s = .next s) ∧
  (∀ mem : Memory, (Device.afterReset mem).statusWord = 0) ∧
  ∀ d : Device,
    d.statusWord.extractLsb' 0 1 = (if d.busy then 1 else 0) ∧
    d.statusWord.extractLsb' 1 1 = (if d.done then 1 else 0) ∧
    d.statusWord.extractLsb' 2 2 = 0 ∧
    d.statusWord.extractLsb' 4 4 = (match d.err with
      | .none => 0 | .lengthOverflow => 1 | .msgRange => 2 | .illegalCmd => 3 | .busyCmd => 4 | .writeWhileBusy => 5) ∧
    d.statusWord.extractLsb' 8 3 = (match d.phase with
      | .idle => 0 | .load => 1 | .expand => 2 | .round => 3 | .fold => 4) ∧
    d.statusWord.extractLsb' 11 1 = (match d.mode with | .compress => 0 | .hash => 1) ∧
    d.statusWord.extractLsb' 12 1 = (if d.irq then 1 else 0) ∧
    d.statusWord.extractLsb' 13 3 = 0 ∧
    d.statusWord.extractLsb' 16 6 = d.cnt ∧
    d.statusWord.extractLsb' 22 10 = 0

/-- 60_exceptions.md R305: the interrupt output is on exactly when CTRL.IE is set and DONE = 1 or ERR is not 0, and
reading STATUS, whose bit 12 is its value, does not change it. -/
def Obligations.InterruptFollowsItsCondition : Prop :=
  (∀ d : Device, d.irq = true ↔ d.ie = true ∧ (d.done = true ∨ d.err ≠ .none)) ∧
  (∀ d : Device, d.statusWord.getLsbD 12 = d.irq) ∧
  (∀ s : State, ∃ t, perform (.rd 0x00C) s = .next t ∧ t.dev.irq = s.dev.irq)

/-- 20_memory.md R87, R91: a register read returns the register's value to the HOST and changes nothing of the device, at
any time. -/
def Obligations.RegisterReadsReturnTheValueAndChangeNothing : Prop :=
  ∀ (s : State) (off : Nat), off % 4 = 0 → off < 0x1000 →
    busStep { space := .reg, width := 32, addr := off, op := .read } s =
      .next { s with results := s.results ++ [.word (s.dev.readOffset s.params off)] }

/-- 20_memory.md R86: a message-memory read returns the byte at any time and changes no state; past the end it is
refused. -/
def Obligations.MemoryReadsReturnTheByteAndChangeNothing : Prop :=
  ∀ (s : State) (a : Nat),
    (a < s.params.msgMemBytes.toNat →
      busStep { space := .mem, width := 8, addr := a, op := .read } s =
        .next { s with results := s.results ++ [.byte (memRead s.params s.dev.msgmem a)] }) ∧
    (s.params.msgMemBytes.toNat ≤ a →
      busStep { space := .mem, width := 8, addr := a, op := .read } s = .refused (.hostContract .memoryRange))

/-- 10_state.md R36: a write of CTRL sets IE to bit 0 at any time, busy or idle, and changes nothing else; CTRL then reads
that bit, and 0 after reset. -/
def Obligations.ControlWriteSetsTheInterruptEnable : Prop :=
  (∀ (s : State) (v : Word), ∃ t, perform (.wr 0x004 v) s = .next t ∧
    t = s.withDev { s.dev with ie := v.getLsbD 0 } ∧ t.dev.readOffset t.params 0x004 = v &&& 1) ∧
  (∀ (p : Params) (mem : Memory), (Device.afterReset mem).readOffset p 0x004 = 0)

/-- 10_state.md R53, 20_memory.md R85: while BUSY = 1 a write of MSG_LEN_LO, MSG_LEN_HI, H, M or message memory changes
nothing but ERR, which becomes 5. -/
def Obligations.GuardedWritesWhileBusyAreDropped : Prop :=
  ∀ s : State, s.dev.busy = true →
    (∀ v : Word, perform (.wr 0x010 v) s = .next (s.withDev { s.dev with err := .writeWhileBusy })) ∧
    (∀ v : Word, perform (.wr 0x014 v) s = .next (s.withDev { s.dev with err := .writeWhileBusy })) ∧
    (∀ (i : Fin 8) (v : Word),
      perform (.wr (0x040 + 4 * i.val) v) s = .next (s.withDev { s.dev with err := .writeWhileBusy })) ∧
    (∀ (t : Fin 16) (v : Word),
      perform (.wr (0x080 + 4 * t.val) v) s = .next (s.withDev { s.dev with err := .writeWhileBusy })) ∧
    (∀ (a : Nat) (v : Byte), a < s.params.msgMemBytes.toNat →
      busStep { space := .mem, width := 8, addr := a, op := .write (v.setWidth 32) } s =
        .next (s.withDev { s.dev with err := .writeWhileBusy }))

/-- 10_state.md R30, R33, R46, R53: while BUSY = 0 a write of a guarded register stores its value and changes nothing
else; a write of one half of MSG_LEN leaves the other half. -/
def Obligations.GuardedWritesWhenIdleStore : Prop :=
  ∀ s : State, s.dev.busy = false →
    (∀ v : Word, perform (.wr 0x010 v) s =
      .next (s.withDev { s.dev with msgLen := s.dev.msgLen.extractLsb' 32 32 ++ v })) ∧
    (∀ v : Word, perform (.wr 0x014 v) s =
      .next (s.withDev { s.dev with msgLen := v ++ s.dev.msgLen.extractLsb' 0 32 })) ∧
    (∀ (i : Fin 8) (v : Word), perform (.wr (0x040 + 4 * i.val) v) s =
      .next (s.withDev { s.dev with H := s.dev.H.set i.val v })) ∧
    (∀ (t : Fin 16) (v : Word), perform (.wr (0x080 + 4 * t.val) v) s =
      .next (s.withDev { s.dev with M := s.dev.M.set t.val v }))

/-- 10_state.md R31, R32, R35, R38, R47, R48, R49: a write of ID, STATUS, MEM_SIZE, BLK, NBLK, wv or W is ignored without
error, busy or idle. -/
def Obligations.ReadOnlyRegistersIgnoreWrites : Prop :=
  ∀ (s : State) (r : Reg) (v : Word), r.readOnly = true → perform (.wr r.offset v) s = .next s

/-- 20_memory.md R85: MWB, idle, stores the byte at its address, leaves every other byte and the rest of the state, and
keeps the memory's form; busy, it only raises 5; past the end it is refused. -/
def Obligations.MemoryWriteStoresOneByte : Prop :=
  ∀ (s : State) (a : Nat) (v : Byte), Memory.wf s.params s.dev.msgmem = true →
    (a < s.params.msgMemBytes.toNat → s.dev.busy = false →
      ∃ t, busStep { space := .mem, width := 8, addr := a, op := .write (v.setWidth 32) } s = .next t ∧
        (∀ b : Nat, memRead t.params t.dev.msgmem b = if b = a then v else memRead s.params s.dev.msgmem b) ∧
        Memory.wf t.params t.dev.msgmem = true ∧
        t = s.withDev { s.dev with msgmem := t.dev.msgmem }) ∧
    (a < s.params.msgMemBytes.toNat → s.dev.busy = true →
      busStep { space := .mem, width := 8, addr := a, op := .write (v.setWidth 32) } s =
        .next (s.withDev { s.dev with err := .writeWhileBusy })) ∧
    (s.params.msgMemBytes.toNat ≤ a →
      busStep { space := .mem, width := 8, addr := a, op := .write (v.setWidth 32) } s =
        .refused (.hostContract .memoryRange))

/-- Two message memories in canonical form that read alike at every address are the same data (the model's form of
20_memory.md R85; log 6). -/
def Obligations.MemoriesThatReadAlikeAreEqual : Prop :=
  ∀ (p : Params) (m m' : Memory), Memory.wf p m = true → Memory.wf p m' = true →
    (∀ a : Nat, memRead p m a = memRead p m' a) → m = m'

/-! ## Reset -/

/-- 70_reset_and_hazards.md R330: reset sets every element to its reset value in any state, a running command included,
and does not change message memory; the interrupt output is then off. That the parameters and the HOST's side (pending,
results, turns, tick) stand is the model's (log 7). -/
def Obligations.ResetSetsEveryElementButMemory : Prop :=
  ∀ s : State, ∃ t, hostEvent .reset s = .next t ∧ t.params = s.params ∧
    t.pending = s.pending ∧ t.results = s.results ∧ t.turns = s.turns ∧ t.tick = s.tick ∧
    t.dev.H = #v[0x6A09E667, 0xBB67AE85, 0x3C6EF372, 0xA54FF53A, 0x510E527F, 0x9B05688C, 0x1F83D9AB, 0x5BE0CD19] ∧
    t.dev.wv = { a := 0, b := 0, c := 0, d := 0, e := 0, f := 0, g := 0, h := 0 } ∧
    (∀ j : Fin 64, t.dev.W[j] = 0) ∧ (∀ k : Fin 16, t.dev.M[k] = 0) ∧ t.dev.msgLen = 0 ∧ t.dev.ie = false ∧
    t.dev.busy = false ∧ t.dev.done = false ∧ t.dev.err = .none ∧ t.dev.mode = .compress ∧ t.dev.phase = .idle ∧
    t.dev.cnt = 0 ∧ t.dev.blk = 0 ∧ t.dev.nblk = 0 ∧ t.dev.msgmem = s.dev.msgmem ∧ t.dev.irq = false

/-- 10_state.md R56, 70_reset_and_hazards.md R330, R333: the state after power-on and reset is the reset of itself, STATUS
reads 0, and message memory reads as MSGMEM_INIT, whatever the device's parameters. -/
def Obligations.PowerOnStateIsReset : Prop :=
  ∀ p : Params,
    resetStep (State.resetOf p) = .next (State.resetOf p) ∧ (State.resetOf p).dev.statusWord = 0 ∧
    (State.resetOf p).dev.H = initialHash ∧ (State.resetOf p).params = p ∧
    (∀ a : Nat, memRead p (State.resetOf p).dev.msgmem a = p.msgMemInit.getD a 0) ∧
    State.reset = State.resetOf Config.params

/-! ## The ENGINE's micro-steps -/

/-- 43_compression.md R240: LOAD brings the block into W[0..15], M in COMPRESS mode and the framed block BLK in HASH mode,
and moves on to EXPAND at 16; nothing else changes. -/
def Obligations.LoadBringsTheBlockIn : Prop :=
  ∀ s : State, s.dev.busy = true → s.dev.phase = .load →
    (s.dev.mode = .compress → ∃ t, engineStep s = .next t ∧
      (∀ k : Fin 16, fileRead t.dev.W k.val = s.dev.M[k]) ∧
      (∀ j : Nat, 16 ≤ j → fileRead t.dev.W j = fileRead s.dev.W j) ∧
      t = s.withDev { s.dev with W := t.dev.W, cnt := 16, phase := .expand }) ∧
    (s.dev.mode = .hash → s.dev.msgLen.toNat < 2 ^ 61 → s.dev.msgLen.toNat ≤ s.params.msgMemBytes.toNat →
      s.dev.blk.toNat < nblocks s.dev.msgLen.toNat → ∃ t, engineStep s = .next t ∧
      (∀ k : Fin 16, fileRead t.dev.W k.val =
        frameWord (memRead s.params s.dev.msgmem) s.dev.msgLen.toNat s.dev.blk.toNat k.val) ∧
      (∀ j : Nat, 16 ≤ j → fileRead t.dev.W j = fileRead s.dev.W j) ∧
      t = s.withDev { s.dev with W := t.dev.W, cnt := 16, phase := .expand })

/-- 42_schedule.md R226, 43_compression.md R242: EXPAND computes W[CNT] and moves CNT on; after W[63] it seeds wv from H
and moves on to ROUND; nothing else changes. -/
def Obligations.ExpandComputesTheNextScheduleWord : Prop :=
  ∀ s : State, s.dev.busy = true → s.dev.phase = .expand → 16 ≤ s.dev.cnt.toNat → ∃ t, engineStep s = .next t ∧
    fileRead t.dev.W s.dev.cnt.toNat =
      ssig1 (fileRead s.dev.W (s.dev.cnt.toNat - 2)) + fileRead s.dev.W (s.dev.cnt.toNat - 7) +
        ssig0 (fileRead s.dev.W (s.dev.cnt.toNat - 15)) + fileRead s.dev.W (s.dev.cnt.toNat - 16) ∧
    (∀ j : Nat, j ≠ s.dev.cnt.toNat → fileRead t.dev.W j = fileRead s.dev.W j) ∧
    (s.dev.cnt.toNat < 63 → t = s.withDev { s.dev with W := t.dev.W, cnt := s.dev.cnt + 1 }) ∧
    (s.dev.cnt.toNat = 63 → t = s.withDev { s.dev with
      W := t.dev.W, cnt := 0, phase := .round,
      wv := { a := s.dev.H[0], b := s.dev.H[1], c := s.dev.H[2], d := s.dev.H[3],
              e := s.dev.H[4], f := s.dev.H[5], g := s.dev.H[6], h := s.dev.H[7] } })

/-- 43_compression.md R248: ROUND replaces the working variables from their values before the step and moves CNT on;
after round 63 it moves on to FOLD; nothing else changes. T1 has five terms (90_conflicts.md C3). -/
def Obligations.RoundUpdatesTheWorkingVariables : Prop :=
  ∀ s : State, s.dev.busy = true → s.dev.phase = .round →
    let v := s.dev.wv
    let t1 := v.h + (v.e.rotateRight 6 ^^^ v.e.rotateRight 11 ^^^ v.e.rotateRight 25) +
      ((v.e &&& v.f) ^^^ (~~~v.e &&& v.g)) + K s.dev.cnt.toNat + fileRead s.dev.W s.dev.cnt.toNat
    let t2 := (v.a.rotateRight 2 ^^^ v.a.rotateRight 13 ^^^ v.a.rotateRight 22) +
      ((v.a &&& v.b) ^^^ (v.a &&& v.c) ^^^ (v.b &&& v.c))
    let v' : WorkVars := { a := t1 + t2, b := v.a, c := v.b, d := v.c, e := v.d + t1, f := v.e, g := v.f, h := v.g }
    (s.dev.cnt.toNat < 63 → engineStep s = .next (s.withDev { s.dev with wv := v', cnt := s.dev.cnt + 1 })) ∧
    (s.dev.cnt.toNat = 63 → engineStep s = .next (s.withDev { s.dev with wv := v', cnt := 0, phase := .fold }))

/-- 43_compression.md R252: FOLD adds the working variables into H; in HASH mode with another block to come it moves on to
that block's LOAD, and otherwise it ends the command with BUSY = 0 and DONE = 1, so that the interrupt output is CTRL.IE;
nothing else changes. -/
def Obligations.FoldAddsIntoTheHashState : Prop :=
  ∀ s : State, s.dev.busy = true → s.dev.phase = .fold →
    let h := s.dev.H
    let v := s.dev.wv
    let h' : Vector Word 8 := #v[h[0] + v.a, h[1] + v.b, h[2] + v.c, h[3] + v.d,
      h[4] + v.e, h[5] + v.f, h[6] + v.g, h[7] + v.h]
    (s.dev.mode = .hash ∧ s.dev.blk + 1 < s.dev.nblk →
      engineStep s = .next (s.withDev { s.dev with H := h', blk := s.dev.blk + 1, phase := .load })) ∧
    (¬(s.dev.mode = .hash ∧ s.dev.blk + 1 < s.dev.nblk) →
      engineStep s = .next (s.withDev { s.dev with H := h', busy := false, done := true, phase := .idle }) ∧
        ({ s.dev with H := h', busy := false, done := true, phase := .idle } : Device).irq = s.dev.ie)

/-- 43_compression.md R254: the ENGINE's (PHASE, CNT, BLK) advance only as the table says, and no HOST event changes them
but an accepted COMPRESS or HASH and reset. -/
def Obligations.SequencerFollowsItsTable : Prop :=
  (∀ (p : Params) (d e : Device), d.Inv p → d.busy = true → d.micro p = .ok e →
    (d.phase = .load ∧ e.phase = .expand ∧ e.cnt = 16 ∧ e.blk = d.blk ∧ e.busy = true) ∨
    (d.phase = .expand ∧ d.cnt.toNat < 63 ∧ e.phase = .expand ∧ e.cnt = d.cnt + 1 ∧ e.blk = d.blk ∧ e.busy = true) ∨
    (d.phase = .expand ∧ d.cnt = 63 ∧ e.phase = .round ∧ e.cnt = 0 ∧ e.blk = d.blk ∧ e.busy = true) ∨
    (d.phase = .round ∧ d.cnt.toNat < 63 ∧ e.phase = .round ∧ e.cnt = d.cnt + 1 ∧ e.blk = d.blk ∧ e.busy = true) ∨
    (d.phase = .round ∧ d.cnt = 63 ∧ e.phase = .fold ∧ e.cnt = 0 ∧ e.blk = d.blk ∧ e.busy = true) ∨
    (d.phase = .fold ∧ d.mode = .hash ∧ d.blk + 1 < d.nblk ∧ e.phase = .load ∧ e.cnt = 0 ∧ e.blk = d.blk + 1 ∧
      e.busy = true) ∨
    (d.phase = .fold ∧ ¬(d.mode = .hash ∧ d.blk + 1 < d.nblk) ∧ e.phase = .idle ∧ e.cnt = 0 ∧ e.blk = d.blk ∧
      e.busy = false ∧ e.done = true)) ∧
  (∀ (s t : State) (e : HostEvent), hostEvent e s = .next t → e ≠ .reset →
    (t.dev.phase = s.dev.phase ∧ t.dev.cnt = s.dev.cnt ∧ t.dev.blk = s.dev.blk) ∨
    (s.dev.busy = false ∧ (e = commandEvent .compress ∨ e = commandEvent .hash) ∧
      t.dev.phase = .load ∧ t.dev.cnt = 0 ∧ t.dev.blk = 0))

/-! ## Invariants and whole-machine rules -/

/-- The invariant of Safety.lean (10_state.md R43, R45, R52; 40_commands.md R155, R157, R160; the memory's canonical form)
is kept by every step of either agent, under every interleaving. -/
def Obligations.StepKeepsTheInvariant : Prop :=
  ∀ s t : State, MachineInv s → step s = .next t → MachineInv t

/-- The invariant holds right after power-on and reset, on every device whose parameters keep their law, and on the one
Config leaves open. -/
def Obligations.ResetMeetsTheInvariant : Prop :=
  (∀ p : Params, p.wf = true → MachineInv (State.resetOf p)) ∧ MachineInv State.reset

/-- 60_exceptions.md R293 for the machine: no step from a state that meets the invariant ends in a fault, and one ends in a
refusal only where the HOST breaks the host contract (R300). -/
def Obligations.OnlyContractViolationsStopTheMachine : Prop :=
  ∀ s : State, MachineInv s →
    (∀ f, step s ≠ .fault f) ∧
    (∀ r, step s = .refused r → ∃ s' b rest why, chooseAgent s = some (.host, s') ∧
      s'.pending = .access b :: rest ∧ b.violation s.params = some why ∧ r = .hostContract why)

/-- 20_memory.md R94, 10_state.md R53: while a command runs, no HOST event but reset changes anything of the device except
ERR and CTRL.IE. -/
def Obligations.HostCannotDisturbARunningCommand : Prop :=
  ∀ (s t : State) (e : HostEvent), s.dev.busy = true → e ≠ .reset → hostEvent e s = .next t →
    t.dev = { s.dev with err := t.dev.err, ie := t.dev.ie }

/-- 10_state.md R40: DONE rises only in the FOLD micro-step that clears BUSY. -/
def Obligations.DoneRisesOnlyAtTheLastFold : Prop :=
  ∀ s t : State, step s = .next t → s.dev.done = false → t.dev.done = true →
    (∃ s', chooseAgent s = some (.engine, s')) ∧ s.dev.busy = true ∧ s.dev.phase = .fold ∧
      ¬(s.dev.mode = .hash ∧ s.dev.blk + 1 < s.dev.nblk) ∧ t.dev.busy = false

/-- 10_state.md R34, R35, R47, 44_constants.md R283: no step changes the device's parameters, so MEM_SIZE and ID read the
same at all times. -/
def Obligations.ParametersNeverChange : Prop :=
  ∀ s t : State, step s = .next t → t.params = s.params ∧
    t.dev.readOffset t.params 0x018 = s.params.msgMemBytes ∧ t.dev.readOffset t.params 0x000 = 0x53484132

/-- 20_memory.md R95, 70_reset_and_hazards.md R342: from the acceptance of a command to its end, under every interleaving,
its inputs M, MSG_LEN and message memory stand as they were. -/
def Obligations.CommandInputsAreImmutable : Prop :=
  ∀ (k : Nat) (s t : State), s.dev.busy = true → CommandRun k s t →
    t.dev.M = s.dev.M ∧ t.dev.msgLen = s.dev.msgLen ∧ t.dev.msgmem = s.dev.msgmem ∧ t.dev.mode = s.dev.mode ∧
      t.dev.nblk = s.dev.nblk

/-- 10_state.md R30 to R33, R36, R39 to R44, R46, R48, R49, 20_memory.md R85: but for reset, every element of the device's
state changes only in a step that the spec names as its writer, under every interleaving. -/
def Obligations.EachRegisterHasItsOnlyWriters : Prop :=
  ∀ s t : State, step s = .next t → s.resetNext = false → OnlyWriters s t

/-! ## Results and completion -/

/-- 40_commands.md R156: if COMPRESS is accepted with H = h and M = m and no reset lands, then when the command ends, under
every interleaving, DONE = 1, H = compress(h, m), and the ENGINE has taken 114 steps. -/
def Obligations.CompressComputesTheCompressionFunction : Prop :=
  ∀ (k : Nat) (s u t : State), MachineInv s → s.dev.busy = false → exec .compress s = .next u → CommandRun k u t →
    t.dev.busy = false → t.dev.done = true ∧ t.dev.H = compress s.dev.H s.dev.M ∧ k = 114

/-- 40_commands.md R158: if HASH is accepted with MSG_LEN = n and message bytes m and no reset lands, then when the command
ends, under every interleaving, DONE = 1, H = sha256_words(m) and the digest bytes are SHA-256(m). -/
def Obligations.HashComputesSha256 : Prop :=
  ∀ (k : Nat) (s u t : State), MachineInv s → s.dev.busy = false → exec .hash s = .next u → u.dev.busy = true →
    CommandRun k u t → t.dev.busy = false →
    t.dev.done = true ∧ t.dev.H = sha256Words (s.dev.message s.params) ∧
      digestBytes t.dev.H = sha256 (s.dev.message s.params) ∧ k = 114 * nblocks s.dev.msgLen.toNat

/-- 40_commands.md R160: an accepted command ends after exactly 114 × NBLK ENGINE steps, and until then each ENGINE step
leaves one step fewer and the phase is not IDLE, under every interleaving. -/
def Obligations.CommandsTakeExactly114StepsPerBlock : Prop :=
  (∀ (i : Instr) (s u : State), MachineInv s → s.dev.busy = false → exec i s = .next u → u.dev.busy = true →
    (i = .compress ∨ i = .hash) ∧ u.dev.stepsLeft = 114 * u.dev.nblk.toNat ∧ u.dev.done = false ∧ u.dev.err = .none) ∧
  (∀ (k : Nat) (s t : State), MachineInv s → s.dev.busy = true → CommandRun k s t →
    t.dev.stepsLeft + k = s.dev.stepsLeft ∧ (t.dev.busy = false ↔ t.dev.stepsLeft = 0) ∧
      (t.dev.busy = true → t.dev.phase ≠ .idle) ∧
      (t.dev.busy = false → t.dev.done = true ∧ t.dev.phase = .idle))

/-- 40_commands.md R160, 70_reset_and_hazards.md R347: a running command left alone completes: after as many steps as are
left of it the machine is idle with DONE = 1. -/
def Obligations.EngineAloneCompletesTheCommand : Prop :=
  ∀ s : State, MachineInv s → s.dev.busy = true → s.pending = [] →
    ∃ t, Sys2Proof.core.run s.dev.stepsLeft s = .next t ∧ t.dev.busy = false ∧ t.dev.done = true ∧ t.pending = [] ∧
      t.results = s.results

/-- 70_reset_and_hazards.md R347, with fairness as a bound: if the turns to come give the ENGINE as many steps as the
running command has left, the HOST's `WAIT` ends. -/
def Obligations.WaitEndsWhenTheEngineIsScheduled : Prop :=
  ∀ (s : State) (rest : List HostEvent), MachineInv s → s.pending = .wait :: rest →
    s.dev.stepsLeft ≤ s.turns.count .engine →
    ∃ (k : Nat) (t : State), Sys2Proof.core.run k s = .next t ∧ t.pending = rest ∧ t.dev.busy = false

/-! ## The HOST's pseudo-instructions -/

/-- 30_encoding.md R122: one turn of WAIT reads STATUS and comes again exactly while BUSY = 1; the device is unchanged. -/
def Obligations.WaitPollsStatusUntilIdle : Prop :=
  ∀ s : State, hostEvent .wait s =
    .next { s with
      results := s.results ++ [.word s.dev.statusWord]
      pending := if s.dev.busy then .wait :: s.pending else s.pending }

/-- 30_encoding.md R122, 10_state.md R46: SETLEN, idle, writes both halves of MSG_LEN and nothing else. -/
def Obligations.SetLenWritesTheLength : Prop :=
  ∀ (s : State) (n : DWord) (rest : List HostEvent), s.dev.busy = false → s.pending = setLen n ++ rest →
    Sys2Proof.core.run 2 s = .next { s with dev := { s.dev with msgLen := n }, pending := rest }

/-- 30_encoding.md R122, 20_memory.md R85: PUTMSG, idle and within the message memory, writes its bytes at consecutive
addresses and no other byte. -/
def Obligations.PutMsgWritesTheMessage : Prop :=
  ∀ (s : State) (a : Nat) (bs : List Byte) (rest : List HostEvent), Memory.wf s.params s.dev.msgmem = true →
    s.dev.busy = false → a + bs.length ≤ s.params.msgMemBytes.toNat → s.pending = putMsg a bs ++ rest →
    ∃ t, Sys2Proof.core.run bs.length s = .next t ∧ t.pending = rest ∧
      (∀ b : Nat, memRead t.params t.dev.msgmem b =
        if a ≤ b ∧ b < a + bs.length then bs.getD (b - a) 0 else memRead s.params s.dev.msgmem b) ∧
      t = { s with dev := { s.dev with msgmem := t.dev.msgmem }, pending := rest }

/-- 30_encoding.md R122, 43_compression.md R262: GETH, idle, returns H[0] to H[7] in that order and changes nothing of the
device. -/
def Obligations.GetHReturnsTheEightWords : Prop :=
  ∀ (s : State) (rest : List HostEvent), s.dev.busy = false → s.pending = getH ++ rest →
    Sys2Proof.core.run 8 s =
      .next { s with pending := rest, results := s.results ++ s.dev.H.toList.map Reply.word }

/-! ## The functions -/

/-- 00_scope.md R12, 42_schedule.md R222: rotation moves the low bits to the top, a shift drops them. -/
def Obligations.RotationIsNotShift : Prop :=
  ∀ (x : Word) (n i : Nat), 0 < n → n < 32 → i < 32 →
    (rotr x n).getLsbD i = x.getLsbD ((i + n) % 32) ∧ (shr x n).getLsbD i = (decide (i + n < 32) && x.getLsbD (i + n))

/-- 00_scope.md R13: big-endian packing of bytes into words, the bytes of a word, and of a 64-bit length. -/
def Obligations.BytePackingIsBigEndian : Prop :=
  (∀ b0 b1 b2 b3 : Byte,
    (be32 b0 b1 b2 b3).toNat = b0.toNat * 2 ^ 24 + b1.toNat * 2 ^ 16 + b2.toNat * 2 ^ 8 + b3.toNat) ∧
  (∀ (x : Word) (k : Fin 4), (byteOf k.val x).toNat = x.toNat / 2 ^ (24 - 8 * k.val) % 256) ∧
  (∀ x : Word, be32 (byteOf 0 x) (byteOf 1 x) (byteOf 2 x) (byteOf 3 x) = x) ∧
  (∀ (len : DWord) (k : Fin 8), (be64Byte k.val len).toNat = len.toNat / 2 ^ (56 - 8 * k.val) % 256)

/-- 42_schedule.md R220, R221, 43_compression.md R244, R245: the four mixing functions and the values the spec gives. -/
def Obligations.MixingFunctionsAreTheSpecs : Prop :=
  (∀ x : Word, ssig0 x = x.rotateRight 7 ^^^ x.rotateRight 18 ^^^ x >>> 3) ∧
  (∀ x : Word, ssig1 x = x.rotateRight 17 ^^^ x.rotateRight 19 ^^^ x >>> 10) ∧
  (∀ x : Word, bsig1 x = x.rotateRight 6 ^^^ x.rotateRight 11 ^^^ x.rotateRight 25) ∧
  (∀ x : Word, bsig0 x = x.rotateRight 2 ^^^ x.rotateRight 13 ^^^ x.rotateRight 22) ∧
  ssig0 0x00000001 = 0x02004000 ∧ ssig0 0x80000000 = 0x11002000 ∧ ssig0 0xFFFFFFFF = 0x1FFFFFFF ∧
  ssig0 0x12345678 = 0xE7FCE6EE ∧
  ssig1 0x00000001 = 0x0000A000 ∧ ssig1 0x80000000 = 0x00205000 ∧ ssig1 0xFFFFFFFF = 0x003FFFFF ∧
  ssig1 0x12345678 = 0xA1F78649 ∧
  bsig1 0x00000001 = 0x04200080 ∧ bsig1 0x80000000 = 0x02100040 ∧ bsig1 0xFFFFFFFF = 0xFFFFFFFF ∧
  bsig0 0x00000001 = 0x40080400 ∧ bsig0 0x80000000 = 0x20040200 ∧ bsig0 0xFFFFFFFF = 0xFFFFFFFF

/-- 43_compression.md R246, R247: Ch takes f where e is 1 and g where e is 0; Maj is 1 where at least two of its arguments
are 1; and the values the spec gives. -/
def Obligations.ChooseAndMajorityAreBitwise : Prop :=
  (∀ (e f g : Word) (i : Fin 32),
    (ch e f g).getLsbD i.val = if e.getLsbD i.val then f.getLsbD i.val else g.getLsbD i.val) ∧
  (∀ (a b c : Word) (i : Fin 32),
    (maj a b c).getLsbD i.val = decide (2 ≤ (a.getLsbD i.val).toNat + (b.getLsbD i.val).toNat + (c.getLsbD i.val).toNat)) ∧
  ch 0x00000000 0xFFFFFFFF 0x12345678 = 0x12345678 ∧ ch 0xFFFFFFFF 0x12345678 0x00000000 = 0x12345678 ∧
  ch 0xF0F0F0F0 0xAAAAAAAA 0x55555555 = 0xA5A5A5A5 ∧
  maj 0xFFFFFFFF 0xFFFFFFFF 0 = 0xFFFFFFFF ∧ maj 0xFFFFFFFF 0 0 = 0 ∧
  maj 0xF0F0F0F0 0xAAAAAAAA 0x55555555 = 0xF0F0F0F0

/-- 42_schedule.md R223: the schedule's first sixteen words are the block's, and each later word is the recurrence over
words of the same schedule. -/
def Obligations.ScheduleMeetsItsRecurrence : Prop :=
  ∀ B : Vector Word 16,
    (∀ j : Fin 16, fileRead (expand B) j.val = B[j]) ∧
    (∀ j : Nat, 16 ≤ j → j < 64 →
      fileRead (expand B) j = ssig1 (fileRead (expand B) (j - 2)) + fileRead (expand B) (j - 7) +
        ssig0 (fileRead (expand B) (j - 15)) + fileRead (expand B) (j - 16))

/-- 41_padding_framing.md R192, R193: the padded stream is the least whole number of blocks that holds the message, the
0x80 byte and the length, its block count fits 56 bits, and the boundary counts. -/
def Obligations.BlockCountIsTheLeast : Prop :=
  (∀ n : Nat, nblocks n = (n + 8) / 64 + 1 ∧ n + 9 ≤ 64 * nblocks n ∧ 64 * (nblocks n - 1) < n + 9 ∧ 1 ≤ nblocks n) ∧
  (∀ n : Nat, n < 2 ^ 61 → nblocks n ≤ 2 ^ 55 + 1 ∧ 2 ^ 55 + 1 < 2 ^ 56) ∧
  [0, 1, 3, 17, 55, 56, 63, 64, 65, 119, 120, 127, 128].map nblocks = [1, 1, 1, 1, 1, 2, 2, 2, 2, 2, 3, 3, 3]

/-- 41_padding_framing.md R194, R195: the framed bytes are the padded stream, byte by byte, for every message. -/
def Obligations.FramedBytesAreThePaddedStream : Prop :=
  ∀ m : List Byte, (paddedBytes m).length = 64 * nblocks m.length ∧
    (∀ p : Nat, p < 64 * nblocks m.length →
      (paddedBytes m)[p]? = some (frameByte (messageByte m) m.length p))

/-- 41_padding_framing.md R190: the padded bytes are, bit by bit, the message bits, a 1 bit, the least number of 0 bits
that fills whole blocks, and the 64-bit big-endian bit length. -/
def Obligations.PaddedBytesAreThePaddedBitStream : Prop :=
  ∀ m : List Byte, m.length < 2 ^ 61 → ∃ z : Nat,
    bitsOfBytes (paddedBytes m) = paddedBits m z ∧ (8 * m.length + 1 + z + 64) % 512 = 0 ∧
    (∀ z' : Nat, z' < z → (8 * m.length + 1 + z' + 64) % 512 ≠ 0) ∧ (bitLength m.length).toNat = 8 * m.length

/-- 43_compression.md R262, 20_memory.md R82: the digest is 32 bytes, the words in order, each big-endian. -/
def Obligations.DigestBytesAreBigEndianWords : Prop :=
  ∀ H : Vector Word 8, (digestBytes H).length = 32 ∧
    (∀ (i : Fin 8) (k : Fin 4), (digestBytes H)[4 * i.val + k.val]? = some (byteOf k.val H[i]))

/-- 44_constants.md R282: the round constants and the initial hash value are the first 32 bits of the fractional parts of
the cube roots of the first 64 primes and the square roots of the first 8. -/
def Obligations.ConstantsAreRootsOfPrimes : Prop :=
  firstPrimes.length = 64 ∧ (∀ q : Nat, q ≤ 311 → (Nat.Prime q ↔ q ∈ firstPrimes)) ∧ firstPrimes.Pairwise (· < ·) ∧
  (∀ j : Fin 64, ∃ r : Nat, r ^ 3 ≤ firstPrimes.getD j.val 0 * 2 ^ 96 ∧
    firstPrimes.getD j.val 0 * 2 ^ 96 < (r + 1) ^ 3 ∧ (K j.val).toNat = r % 2 ^ 32) ∧
  (∀ i : Fin 8, ∃ r : Nat, r ^ 2 ≤ firstPrimes.getD i.val 0 * 2 ^ 64 ∧
    firstPrimes.getD i.val 0 * 2 ^ 64 < (r + 1) ^ 2 ∧ (initialHash[i]).toNat = r % 2 ^ 32)
end

