-- ==== Sys2Proof/Laws/State.lean ====
section
/-! SUPPORT. One lemma per field per update, so that no proof unfolds a record update. -/

namespace Sys2Proof.Machine

/-! The machine around the device. -/

@[simp] theorem State.withDev_params (s : State) (d : Device) : (s.withDev d).params = s.params := rfl
@[simp] theorem State.withDev_dev (s : State) (d : Device) : (s.withDev d).dev = d := rfl
@[simp] theorem State.withDev_pending (s : State) (d : Device) : (s.withDev d).pending = s.pending := rfl
@[simp] theorem State.withDev_results (s : State) (d : Device) : (s.withDev d).results = s.results := rfl
@[simp] theorem State.withDev_turns (s : State) (d : Device) : (s.withDev d).turns = s.turns := rfl
@[simp] theorem State.withDev_tick (s : State) (d : Device) : (s.withDev d).tick = s.tick := rfl

@[simp] theorem State.reply_params (s : State) (r : Reply) : (s.reply r).params = s.params := rfl
@[simp] theorem State.reply_dev (s : State) (r : Reply) : (s.reply r).dev = s.dev := rfl
@[simp] theorem State.reply_pending (s : State) (r : Reply) : (s.reply r).pending = s.pending := rfl
@[simp] theorem State.reply_results (s : State) (r : Reply) : (s.reply r).results = s.results ++ [r] := rfl
@[simp] theorem State.reply_turns (s : State) (r : Reply) : (s.reply r).turns = s.turns := rfl
@[simp] theorem State.reply_tick (s : State) (r : Reply) : (s.reply r).tick = s.tick := rfl

@[simp] theorem State.withPending_params (s : State) (es : List HostEvent) : (s.withPending es).params = s.params := rfl
@[simp] theorem State.withPending_dev (s : State) (es : List HostEvent) : (s.withPending es).dev = s.dev := rfl
@[simp] theorem State.withPending_pending (s : State) (es : List HostEvent) : (s.withPending es).pending = es := rfl
@[simp] theorem State.withPending_results (s : State) (es : List HostEvent) : (s.withPending es).results = s.results := rfl
@[simp] theorem State.withPending_turns (s : State) (es : List HostEvent) : (s.withPending es).turns = s.turns := rfl
@[simp] theorem State.withPending_tick (s : State) (es : List HostEvent) : (s.withPending es).tick = s.tick := rfl

@[simp] theorem State.withDev_dev_self (s : State) : s.withDev s.dev = s := rfl
@[simp] theorem State.withDev_withDev (s : State) (d e : Device) : (s.withDev d).withDev e = s.withDev e := rfl

/-! Raising an error writes ERR only (60_exceptions.md R291). -/

@[simp] theorem Device.raiseError_H (c : ErrCode) (d : Device) : (d.raiseError c).H = d.H := rfl
@[simp] theorem Device.raiseError_wv (c : ErrCode) (d : Device) : (d.raiseError c).wv = d.wv := rfl
@[simp] theorem Device.raiseError_W (c : ErrCode) (d : Device) : (d.raiseError c).W = d.W := rfl
@[simp] theorem Device.raiseError_M (c : ErrCode) (d : Device) : (d.raiseError c).M = d.M := rfl
@[simp] theorem Device.raiseError_msgLen (c : ErrCode) (d : Device) : (d.raiseError c).msgLen = d.msgLen := rfl
@[simp] theorem Device.raiseError_ie (c : ErrCode) (d : Device) : (d.raiseError c).ie = d.ie := rfl
@[simp] theorem Device.raiseError_busy (c : ErrCode) (d : Device) : (d.raiseError c).busy = d.busy := rfl
@[simp] theorem Device.raiseError_done (c : ErrCode) (d : Device) : (d.raiseError c).done = d.done := rfl
@[simp] theorem Device.raiseError_err (c : ErrCode) (d : Device) : (d.raiseError c).err = c := rfl
@[simp] theorem Device.raiseError_mode (c : ErrCode) (d : Device) : (d.raiseError c).mode = d.mode := rfl
@[simp] theorem Device.raiseError_phase (c : ErrCode) (d : Device) : (d.raiseError c).phase = d.phase := rfl
@[simp] theorem Device.raiseError_cnt (c : ErrCode) (d : Device) : (d.raiseError c).cnt = d.cnt := rfl
@[simp] theorem Device.raiseError_blk (c : ErrCode) (d : Device) : (d.raiseError c).blk = d.blk := rfl
@[simp] theorem Device.raiseError_nblk (c : ErrCode) (d : Device) : (d.raiseError c).nblk = d.nblk := rfl
@[simp] theorem Device.raiseError_msgmem (c : ErrCode) (d : Device) : (d.raiseError c).msgmem = d.msgmem := rfl

/-! The acknowledgement writes DONE and ERR only (40_commands.md R159). -/

@[simp] theorem Device.clearFlags_H (d : Device) : (d.clearFlags).H = d.H := rfl
@[simp] theorem Device.clearFlags_wv (d : Device) : (d.clearFlags).wv = d.wv := rfl
@[simp] theorem Device.clearFlags_W (d : Device) : (d.clearFlags).W = d.W := rfl
@[simp] theorem Device.clearFlags_M (d : Device) : (d.clearFlags).M = d.M := rfl
@[simp] theorem Device.clearFlags_msgLen (d : Device) : (d.clearFlags).msgLen = d.msgLen := rfl
@[simp] theorem Device.clearFlags_ie (d : Device) : (d.clearFlags).ie = d.ie := rfl
@[simp] theorem Device.clearFlags_busy (d : Device) : (d.clearFlags).busy = d.busy := rfl
@[simp] theorem Device.clearFlags_done (d : Device) : (d.clearFlags).done = false := rfl
@[simp] theorem Device.clearFlags_err (d : Device) : (d.clearFlags).err = .none := rfl
@[simp] theorem Device.clearFlags_mode (d : Device) : (d.clearFlags).mode = d.mode := rfl
@[simp] theorem Device.clearFlags_phase (d : Device) : (d.clearFlags).phase = d.phase := rfl
@[simp] theorem Device.clearFlags_cnt (d : Device) : (d.clearFlags).cnt = d.cnt := rfl
@[simp] theorem Device.clearFlags_blk (d : Device) : (d.clearFlags).blk = d.blk := rfl
@[simp] theorem Device.clearFlags_nblk (d : Device) : (d.clearFlags).nblk = d.nblk := rfl
@[simp] theorem Device.clearFlags_msgmem (d : Device) : (d.clearFlags).msgmem = d.msgmem := rfl

/-! Loading IV writes H only (40_commands.md R153). -/

@[simp] theorem Device.loadIV_H (d : Device) : (d.loadIV).H = initialHash := rfl
@[simp] theorem Device.loadIV_wv (d : Device) : (d.loadIV).wv = d.wv := rfl
@[simp] theorem Device.loadIV_W (d : Device) : (d.loadIV).W = d.W := rfl
@[simp] theorem Device.loadIV_M (d : Device) : (d.loadIV).M = d.M := rfl
@[simp] theorem Device.loadIV_msgLen (d : Device) : (d.loadIV).msgLen = d.msgLen := rfl
@[simp] theorem Device.loadIV_ie (d : Device) : (d.loadIV).ie = d.ie := rfl
@[simp] theorem Device.loadIV_busy (d : Device) : (d.loadIV).busy = d.busy := rfl
@[simp] theorem Device.loadIV_done (d : Device) : (d.loadIV).done = d.done := rfl
@[simp] theorem Device.loadIV_err (d : Device) : (d.loadIV).err = d.err := rfl
@[simp] theorem Device.loadIV_mode (d : Device) : (d.loadIV).mode = d.mode := rfl
@[simp] theorem Device.loadIV_phase (d : Device) : (d.loadIV).phase = d.phase := rfl
@[simp] theorem Device.loadIV_cnt (d : Device) : (d.loadIV).cnt = d.cnt := rfl
@[simp] theorem Device.loadIV_blk (d : Device) : (d.loadIV).blk = d.blk := rfl
@[simp] theorem Device.loadIV_nblk (d : Device) : (d.loadIV).nblk = d.nblk := rfl
@[simp] theorem Device.loadIV_msgmem (d : Device) : (d.loadIV).msgmem = d.msgmem := rfl

/-! INIT writes H, DONE and ERR only (40_commands.md R153). -/

@[simp] theorem Device.initialise_H (d : Device) : (d.initialise).H = initialHash := rfl
@[simp] theorem Device.initialise_wv (d : Device) : (d.initialise).wv = d.wv := rfl
@[simp] theorem Device.initialise_W (d : Device) : (d.initialise).W = d.W := rfl
@[simp] theorem Device.initialise_M (d : Device) : (d.initialise).M = d.M := rfl
@[simp] theorem Device.initialise_msgLen (d : Device) : (d.initialise).msgLen = d.msgLen := rfl
@[simp] theorem Device.initialise_ie (d : Device) : (d.initialise).ie = d.ie := rfl
@[simp] theorem Device.initialise_busy (d : Device) : (d.initialise).busy = d.busy := rfl
@[simp] theorem Device.initialise_done (d : Device) : (d.initialise).done = false := rfl
@[simp] theorem Device.initialise_err (d : Device) : (d.initialise).err = .none := rfl
@[simp] theorem Device.initialise_mode (d : Device) : (d.initialise).mode = d.mode := rfl
@[simp] theorem Device.initialise_phase (d : Device) : (d.initialise).phase = d.phase := rfl
@[simp] theorem Device.initialise_cnt (d : Device) : (d.initialise).cnt = d.cnt := rfl
@[simp] theorem Device.initialise_blk (d : Device) : (d.initialise).blk = d.blk := rfl
@[simp] theorem Device.initialise_nblk (d : Device) : (d.initialise).nblk = d.nblk := rfl
@[simp] theorem Device.initialise_msgmem (d : Device) : (d.initialise).msgmem = d.msgmem := rfl

/-! The start of a command (40_commands.md R155, R157). -/

@[simp] theorem Device.start_H (m : Mode) (n : DWord) (d : Device) : (d.start m n).H = d.H := rfl
@[simp] theorem Device.start_wv (m : Mode) (n : DWord) (d : Device) : (d.start m n).wv = d.wv := rfl
@[simp] theorem Device.start_W (m : Mode) (n : DWord) (d : Device) : (d.start m n).W = d.W := rfl
@[simp] theorem Device.start_M (m : Mode) (n : DWord) (d : Device) : (d.start m n).M = d.M := rfl
@[simp] theorem Device.start_msgLen (m : Mode) (n : DWord) (d : Device) : (d.start m n).msgLen = d.msgLen := rfl
@[simp] theorem Device.start_ie (m : Mode) (n : DWord) (d : Device) : (d.start m n).ie = d.ie := rfl
@[simp] theorem Device.start_busy (m : Mode) (n : DWord) (d : Device) : (d.start m n).busy = true := rfl
@[simp] theorem Device.start_done (m : Mode) (n : DWord) (d : Device) : (d.start m n).done = false := rfl
@[simp] theorem Device.start_err (m : Mode) (n : DWord) (d : Device) : (d.start m n).err = .none := rfl
@[simp] theorem Device.start_mode (m : Mode) (n : DWord) (d : Device) : (d.start m n).mode = m := rfl
@[simp] theorem Device.start_phase (m : Mode) (n : DWord) (d : Device) : (d.start m n).phase = .load := rfl
@[simp] theorem Device.start_cnt (m : Mode) (n : DWord) (d : Device) : (d.start m n).cnt = 0 := rfl
@[simp] theorem Device.start_blk (m : Mode) (n : DWord) (d : Device) : (d.start m n).blk = 0 := rfl
@[simp] theorem Device.start_nblk (m : Mode) (n : DWord) (d : Device) : (d.start m n).nblk = n := rfl
@[simp] theorem Device.start_msgmem (m : Mode) (n : DWord) (d : Device) : (d.start m n).msgmem = d.msgmem := rfl

/-! A write of MSG_LEN_LO (10_state.md R46). -/

@[simp] theorem Device.setMsgLenLo_H (v : Word) (d : Device) : (d.setMsgLenLo v).H = d.H := rfl
@[simp] theorem Device.setMsgLenLo_wv (v : Word) (d : Device) : (d.setMsgLenLo v).wv = d.wv := rfl
@[simp] theorem Device.setMsgLenLo_W (v : Word) (d : Device) : (d.setMsgLenLo v).W = d.W := rfl
@[simp] theorem Device.setMsgLenLo_M (v : Word) (d : Device) : (d.setMsgLenLo v).M = d.M := rfl
@[simp] theorem Device.setMsgLenLo_msgLen (v : Word) (d : Device) : (d.setMsgLenLo v).msgLen = highWord d.msgLen ++ v := rfl
@[simp] theorem Device.setMsgLenLo_ie (v : Word) (d : Device) : (d.setMsgLenLo v).ie = d.ie := rfl
@[simp] theorem Device.setMsgLenLo_busy (v : Word) (d : Device) : (d.setMsgLenLo v).busy = d.busy := rfl
@[simp] theorem Device.setMsgLenLo_done (v : Word) (d : Device) : (d.setMsgLenLo v).done = d.done := rfl
@[simp] theorem Device.setMsgLenLo_err (v : Word) (d : Device) : (d.setMsgLenLo v).err = d.err := rfl
@[simp] theorem Device.setMsgLenLo_mode (v : Word) (d : Device) : (d.setMsgLenLo v).mode = d.mode := rfl
@[simp] theorem Device.setMsgLenLo_phase (v : Word) (d : Device) : (d.setMsgLenLo v).phase = d.phase := rfl
@[simp] theorem Device.setMsgLenLo_cnt (v : Word) (d : Device) : (d.setMsgLenLo v).cnt = d.cnt := rfl
@[simp] theorem Device.setMsgLenLo_blk (v : Word) (d : Device) : (d.setMsgLenLo v).blk = d.blk := rfl
@[simp] theorem Device.setMsgLenLo_nblk (v : Word) (d : Device) : (d.setMsgLenLo v).nblk = d.nblk := rfl
@[simp] theorem Device.setMsgLenLo_msgmem (v : Word) (d : Device) : (d.setMsgLenLo v).msgmem = d.msgmem := rfl

/-! A write of MSG_LEN_HI (10_state.md R46). -/

@[simp] theorem Device.setMsgLenHi_H (v : Word) (d : Device) : (d.setMsgLenHi v).H = d.H := rfl
@[simp] theorem Device.setMsgLenHi_wv (v : Word) (d : Device) : (d.setMsgLenHi v).wv = d.wv := rfl
@[simp] theorem Device.setMsgLenHi_W (v : Word) (d : Device) : (d.setMsgLenHi v).W = d.W := rfl
@[simp] theorem Device.setMsgLenHi_M (v : Word) (d : Device) : (d.setMsgLenHi v).M = d.M := rfl
@[simp] theorem Device.setMsgLenHi_msgLen (v : Word) (d : Device) : (d.setMsgLenHi v).msgLen = v ++ lowWord d.msgLen := rfl
@[simp] theorem Device.setMsgLenHi_ie (v : Word) (d : Device) : (d.setMsgLenHi v).ie = d.ie := rfl
@[simp] theorem Device.setMsgLenHi_busy (v : Word) (d : Device) : (d.setMsgLenHi v).busy = d.busy := rfl
@[simp] theorem Device.setMsgLenHi_done (v : Word) (d : Device) : (d.setMsgLenHi v).done = d.done := rfl
@[simp] theorem Device.setMsgLenHi_err (v : Word) (d : Device) : (d.setMsgLenHi v).err = d.err := rfl
@[simp] theorem Device.setMsgLenHi_mode (v : Word) (d : Device) : (d.setMsgLenHi v).mode = d.mode := rfl
@[simp] theorem Device.setMsgLenHi_phase (v : Word) (d : Device) : (d.setMsgLenHi v).phase = d.phase := rfl
@[simp] theorem Device.setMsgLenHi_cnt (v : Word) (d : Device) : (d.setMsgLenHi v).cnt = d.cnt := rfl
@[simp] theorem Device.setMsgLenHi_blk (v : Word) (d : Device) : (d.setMsgLenHi v).blk = d.blk := rfl
@[simp] theorem Device.setMsgLenHi_nblk (v : Word) (d : Device) : (d.setMsgLenHi v).nblk = d.nblk := rfl
@[simp] theorem Device.setMsgLenHi_msgmem (v : Word) (d : Device) : (d.setMsgLenHi v).msgmem = d.msgmem := rfl

/-! A write of H[i] (10_state.md R30). -/

@[simp] theorem Device.setH_H (i : Fin 8) (v : Word) (d : Device) : (d.setH i v).H = fileWrite d.H i.val v := rfl
@[simp] theorem Device.setH_wv (i : Fin 8) (v : Word) (d : Device) : (d.setH i v).wv = d.wv := rfl
@[simp] theorem Device.setH_W (i : Fin 8) (v : Word) (d : Device) : (d.setH i v).W = d.W := rfl
@[simp] theorem Device.setH_M (i : Fin 8) (v : Word) (d : Device) : (d.setH i v).M = d.M := rfl
@[simp] theorem Device.setH_msgLen (i : Fin 8) (v : Word) (d : Device) : (d.setH i v).msgLen = d.msgLen := rfl
@[simp] theorem Device.setH_ie (i : Fin 8) (v : Word) (d : Device) : (d.setH i v).ie = d.ie := rfl
@[simp] theorem Device.setH_busy (i : Fin 8) (v : Word) (d : Device) : (d.setH i v).busy = d.busy := rfl
@[simp] theorem Device.setH_done (i : Fin 8) (v : Word) (d : Device) : (d.setH i v).done = d.done := rfl
@[simp] theorem Device.setH_err (i : Fin 8) (v : Word) (d : Device) : (d.setH i v).err = d.err := rfl
@[simp] theorem Device.setH_mode (i : Fin 8) (v : Word) (d : Device) : (d.setH i v).mode = d.mode := rfl
@[simp] theorem Device.setH_phase (i : Fin 8) (v : Word) (d : Device) : (d.setH i v).phase = d.phase := rfl
@[simp] theorem Device.setH_cnt (i : Fin 8) (v : Word) (d : Device) : (d.setH i v).cnt = d.cnt := rfl
@[simp] theorem Device.setH_blk (i : Fin 8) (v : Word) (d : Device) : (d.setH i v).blk = d.blk := rfl
@[simp] theorem Device.setH_nblk (i : Fin 8) (v : Word) (d : Device) : (d.setH i v).nblk = d.nblk := rfl
@[simp] theorem Device.setH_msgmem (i : Fin 8) (v : Word) (d : Device) : (d.setH i v).msgmem = d.msgmem := rfl

/-! A write of M[t] (10_state.md R33). -/

@[simp] theorem Device.setM_H (i : Fin 16) (v : Word) (d : Device) : (d.setM i v).H = d.H := rfl
@[simp] theorem Device.setM_wv (i : Fin 16) (v : Word) (d : Device) : (d.setM i v).wv = d.wv := rfl
@[simp] theorem Device.setM_W (i : Fin 16) (v : Word) (d : Device) : (d.setM i v).W = d.W := rfl
@[simp] theorem Device.setM_M (i : Fin 16) (v : Word) (d : Device) : (d.setM i v).M = fileWrite d.M i.val v := rfl
@[simp] theorem Device.setM_msgLen (i : Fin 16) (v : Word) (d : Device) : (d.setM i v).msgLen = d.msgLen := rfl
@[simp] theorem Device.setM_ie (i : Fin 16) (v : Word) (d : Device) : (d.setM i v).ie = d.ie := rfl
@[simp] theorem Device.setM_busy (i : Fin 16) (v : Word) (d : Device) : (d.setM i v).busy = d.busy := rfl
@[simp] theorem Device.setM_done (i : Fin 16) (v : Word) (d : Device) : (d.setM i v).done = d.done := rfl
@[simp] theorem Device.setM_err (i : Fin 16) (v : Word) (d : Device) : (d.setM i v).err = d.err := rfl
@[simp] theorem Device.setM_mode (i : Fin 16) (v : Word) (d : Device) : (d.setM i v).mode = d.mode := rfl
@[simp] theorem Device.setM_phase (i : Fin 16) (v : Word) (d : Device) : (d.setM i v).phase = d.phase := rfl
@[simp] theorem Device.setM_cnt (i : Fin 16) (v : Word) (d : Device) : (d.setM i v).cnt = d.cnt := rfl
@[simp] theorem Device.setM_blk (i : Fin 16) (v : Word) (d : Device) : (d.setM i v).blk = d.blk := rfl
@[simp] theorem Device.setM_nblk (i : Fin 16) (v : Word) (d : Device) : (d.setM i v).nblk = d.nblk := rfl
@[simp] theorem Device.setM_msgmem (i : Fin 16) (v : Word) (d : Device) : (d.setM i v).msgmem = d.msgmem := rfl

/-! A write of CTRL (10_state.md R36). -/

@[simp] theorem Device.setCtrl_H (v : Word) (d : Device) : (d.setCtrl v).H = d.H := rfl
@[simp] theorem Device.setCtrl_wv (v : Word) (d : Device) : (d.setCtrl v).wv = d.wv := rfl
@[simp] theorem Device.setCtrl_W (v : Word) (d : Device) : (d.setCtrl v).W = d.W := rfl
@[simp] theorem Device.setCtrl_M (v : Word) (d : Device) : (d.setCtrl v).M = d.M := rfl
@[simp] theorem Device.setCtrl_msgLen (v : Word) (d : Device) : (d.setCtrl v).msgLen = d.msgLen := rfl
@[simp] theorem Device.setCtrl_ie (v : Word) (d : Device) : (d.setCtrl v).ie = v.getLsbD 0 := rfl
@[simp] theorem Device.setCtrl_busy (v : Word) (d : Device) : (d.setCtrl v).busy = d.busy := rfl
@[simp] theorem Device.setCtrl_done (v : Word) (d : Device) : (d.setCtrl v).done = d.done := rfl
@[simp] theorem Device.setCtrl_err (v : Word) (d : Device) : (d.setCtrl v).err = d.err := rfl
@[simp] theorem Device.setCtrl_mode (v : Word) (d : Device) : (d.setCtrl v).mode = d.mode := rfl
@[simp] theorem Device.setCtrl_phase (v : Word) (d : Device) : (d.setCtrl v).phase = d.phase := rfl
@[simp] theorem Device.setCtrl_cnt (v : Word) (d : Device) : (d.setCtrl v).cnt = d.cnt := rfl
@[simp] theorem Device.setCtrl_blk (v : Word) (d : Device) : (d.setCtrl v).blk = d.blk := rfl
@[simp] theorem Device.setCtrl_nblk (v : Word) (d : Device) : (d.setCtrl v).nblk = d.nblk := rfl
@[simp] theorem Device.setCtrl_msgmem (v : Word) (d : Device) : (d.setCtrl v).msgmem = d.msgmem := rfl

/-! A write of message memory (20_memory.md R85). -/

@[simp] theorem Device.setByte_H (p : Params) (a : Nat) (v : Byte) (d : Device) : (d.setByte p a v).H = d.H := rfl
@[simp] theorem Device.setByte_wv (p : Params) (a : Nat) (v : Byte) (d : Device) : (d.setByte p a v).wv = d.wv := rfl
@[simp] theorem Device.setByte_W (p : Params) (a : Nat) (v : Byte) (d : Device) : (d.setByte p a v).W = d.W := rfl
@[simp] theorem Device.setByte_M (p : Params) (a : Nat) (v : Byte) (d : Device) : (d.setByte p a v).M = d.M := rfl
@[simp] theorem Device.setByte_msgLen (p : Params) (a : Nat) (v : Byte) (d : Device) : (d.setByte p a v).msgLen = d.msgLen := rfl
@[simp] theorem Device.setByte_ie (p : Params) (a : Nat) (v : Byte) (d : Device) : (d.setByte p a v).ie = d.ie := rfl
@[simp] theorem Device.setByte_busy (p : Params) (a : Nat) (v : Byte) (d : Device) : (d.setByte p a v).busy = d.busy := rfl
@[simp] theorem Device.setByte_done (p : Params) (a : Nat) (v : Byte) (d : Device) : (d.setByte p a v).done = d.done := rfl
@[simp] theorem Device.setByte_err (p : Params) (a : Nat) (v : Byte) (d : Device) : (d.setByte p a v).err = d.err := rfl
@[simp] theorem Device.setByte_mode (p : Params) (a : Nat) (v : Byte) (d : Device) : (d.setByte p a v).mode = d.mode := rfl
@[simp] theorem Device.setByte_phase (p : Params) (a : Nat) (v : Byte) (d : Device) : (d.setByte p a v).phase = d.phase := rfl
@[simp] theorem Device.setByte_cnt (p : Params) (a : Nat) (v : Byte) (d : Device) : (d.setByte p a v).cnt = d.cnt := rfl
@[simp] theorem Device.setByte_blk (p : Params) (a : Nat) (v : Byte) (d : Device) : (d.setByte p a v).blk = d.blk := rfl
@[simp] theorem Device.setByte_nblk (p : Params) (a : Nat) (v : Byte) (d : Device) : (d.setByte p a v).nblk = d.nblk := rfl
@[simp] theorem Device.setByte_msgmem (p : Params) (a : Nat) (v : Byte) (d : Device) : (d.setByte p a v).msgmem = memWrite p d.msgmem a v := rfl

/-! LOAD (43_compression.md R240). -/

@[simp] theorem Device.load_H (p : Params) (d : Device) : (d.load p).H = d.H := rfl
@[simp] theorem Device.load_wv (p : Params) (d : Device) : (d.load p).wv = d.wv := rfl
@[simp] theorem Device.load_W (p : Params) (d : Device) : (d.load p).W = loadWords d.W (d.sourceBlock p) := rfl
@[simp] theorem Device.load_M (p : Params) (d : Device) : (d.load p).M = d.M := rfl
@[simp] theorem Device.load_msgLen (p : Params) (d : Device) : (d.load p).msgLen = d.msgLen := rfl
@[simp] theorem Device.load_ie (p : Params) (d : Device) : (d.load p).ie = d.ie := rfl
@[simp] theorem Device.load_busy (p : Params) (d : Device) : (d.load p).busy = d.busy := rfl
@[simp] theorem Device.load_done (p : Params) (d : Device) : (d.load p).done = d.done := rfl
@[simp] theorem Device.load_err (p : Params) (d : Device) : (d.load p).err = d.err := rfl
@[simp] theorem Device.load_mode (p : Params) (d : Device) : (d.load p).mode = d.mode := rfl
@[simp] theorem Device.load_phase (p : Params) (d : Device) : (d.load p).phase = .expand := rfl
@[simp] theorem Device.load_cnt (p : Params) (d : Device) : (d.load p).cnt = 16 := rfl
@[simp] theorem Device.load_blk (p : Params) (d : Device) : (d.load p).blk = d.blk := rfl
@[simp] theorem Device.load_nblk (p : Params) (d : Device) : (d.load p).nblk = d.nblk := rfl
@[simp] theorem Device.load_msgmem (p : Params) (d : Device) : (d.load p).msgmem = d.msgmem := rfl

/-! Seed (43_compression.md R242). -/

@[simp] theorem Device.seed_H (d : Device) : (d.seed).H = d.H := rfl
@[simp] theorem Device.seed_wv (d : Device) : (d.seed).wv = seedVars d.H := rfl
@[simp] theorem Device.seed_W (d : Device) : (d.seed).W = d.W := rfl
@[simp] theorem Device.seed_M (d : Device) : (d.seed).M = d.M := rfl
@[simp] theorem Device.seed_msgLen (d : Device) : (d.seed).msgLen = d.msgLen := rfl
@[simp] theorem Device.seed_ie (d : Device) : (d.seed).ie = d.ie := rfl
@[simp] theorem Device.seed_busy (d : Device) : (d.seed).busy = d.busy := rfl
@[simp] theorem Device.seed_done (d : Device) : (d.seed).done = d.done := rfl
@[simp] theorem Device.seed_err (d : Device) : (d.seed).err = d.err := rfl
@[simp] theorem Device.seed_mode (d : Device) : (d.seed).mode = d.mode := rfl
@[simp] theorem Device.seed_phase (d : Device) : (d.seed).phase = d.phase := rfl
@[simp] theorem Device.seed_cnt (d : Device) : (d.seed).cnt = d.cnt := rfl
@[simp] theorem Device.seed_blk (d : Device) : (d.seed).blk = d.blk := rfl
@[simp] theorem Device.seed_nblk (d : Device) : (d.seed).nblk = d.nblk := rfl
@[simp] theorem Device.seed_msgmem (d : Device) : (d.seed).msgmem = d.msgmem := rfl

/-! Reset keeps the message memory (70_reset_and_hazards.md R330). -/

@[simp] theorem Device.reset_H (d : Device) : d.reset.H = initialHash := rfl
@[simp] theorem Device.reset_wv (d : Device) : d.reset.wv = { a := 0, b := 0, c := 0, d := 0, e := 0, f := 0, g := 0, h := 0 } := rfl
@[simp] theorem Device.reset_W (d : Device) : d.reset.W = Vector.replicate 64 0 := rfl
@[simp] theorem Device.reset_M (d : Device) : d.reset.M = Vector.replicate 16 0 := rfl
@[simp] theorem Device.reset_msgLen (d : Device) : d.reset.msgLen = 0 := rfl
@[simp] theorem Device.reset_ie (d : Device) : d.reset.ie = false := rfl
@[simp] theorem Device.reset_busy (d : Device) : d.reset.busy = false := rfl
@[simp] theorem Device.reset_done (d : Device) : d.reset.done = false := rfl
@[simp] theorem Device.reset_err (d : Device) : d.reset.err = .none := rfl
@[simp] theorem Device.reset_mode (d : Device) : d.reset.mode = .compress := rfl
@[simp] theorem Device.reset_phase (d : Device) : d.reset.phase = .idle := rfl
@[simp] theorem Device.reset_cnt (d : Device) : d.reset.cnt = 0 := rfl
@[simp] theorem Device.reset_blk (d : Device) : d.reset.blk = 0 := rfl
@[simp] theorem Device.reset_nblk (d : Device) : d.reset.nblk = 0 := rfl
@[simp] theorem Device.reset_msgmem (d : Device) : d.reset.msgmem = d.msgmem := rfl

/-! The two guards: a write while busy (10_state.md R53) and a command while busy (40_commands.md R150). -/

theorem Device.guarded_busy (w : Device → Device) {d : Device} (h : d.busy = true) :
    d.guarded w = d.raiseError .writeWhileBusy := by simp [Device.guarded, h]

theorem Device.guarded_idle (w : Device → Device) {d : Device} (h : d.busy = false) : d.guarded w = w d := by
  simp [Device.guarded, h]

theorem Device.whenIdle_busy (act : Device → Device) {d : Device} (h : d.busy = true) :
    d.whenIdle act = d.raiseError .busyCmd := by simp [Device.whenIdle, h]

theorem Device.whenIdle_idle (act : Device → Device) {d : Device} (h : d.busy = false) : d.whenIdle act = act d := by
  simp [Device.whenIdle, h]

end Sys2Proof.Machine
end

