-- ==== Sys2Proof/Laws/Files.lean ====
section
/-! SUPPORT. The laws of the register files: a read after a write, and when two files are equal. -/

namespace Sys2Proof.Machine

theorem fileRead_lt {n : Nat} (v : Vector Word n) (i : Nat) (h : i < n) : fileRead v i = v[i] := by
  simp [fileRead, h]

/-- Past its end a register file reads 0 (log 10). -/
theorem fileRead_ge {n : Nat} (v : Vector Word n) (i : Nat) (h : n ≤ i) : fileRead v i = 0 := by
  simp [fileRead, Nat.not_lt.2 h]

theorem fileWrite_eq_set {n : Nat} (v : Vector Word n) (i : Nat) (x : Word) (h : i < n) :
    fileWrite v i x = v.set i x := by
  apply Vector.ext
  intro j hj
  simp [fileWrite, Vector.getElem_setIfInBounds, Vector.getElem_set]

/-- A read after a write of a register file. -/
theorem fileRead_fileWrite {n : Nat} (v : Vector Word n) (i j : Nat) (x : Word) :
    fileRead (fileWrite v i x) j = if j = i ∧ i < n then x else fileRead v j := by
  by_cases hj : j < n
  · simp only [fileRead_lt _ _ hj, fileWrite, Vector.getElem_setIfInBounds]
    by_cases h : i = j
    · subst h; simp [hj]
    · have h' : j ≠ i := fun e => h e.symm
      simp [h, h']
  · have h' : ¬(j = i ∧ i < n) := by omega
    rw [if_neg h', fileRead_ge _ _ (by omega), fileRead_ge _ _ (by omega)]

/-- A read after a run of writes. -/
theorem fileRead_fileWriteFrom {n : Nat} (v : Vector Word n) (i j : Nat) (xs : List Word) :
    fileRead (fileWriteFrom v i xs) j =
      if i ≤ j ∧ j < i + xs.length ∧ j < n then xs.getD (j - i) 0 else fileRead v j := by
  induction xs generalizing v i with
  | nil =>
    have h : ¬(i ≤ j ∧ j < i + ([] : List Word).length ∧ j < n) := by simp; omega
    rw [if_neg h]; rfl
  | cons x xs ih =>
    simp only [fileWriteFrom]
    rw [ih, fileRead_fileWrite]
    simp only [List.length_cons]
    by_cases h1 : j = i
    · subst h1
      by_cases h2 : j < n
      · simp [h2]
      · simp [h2]
    · by_cases h2 : i + 1 ≤ j ∧ j < i + 1 + xs.length ∧ j < n
      · have h3 : i ≤ j ∧ j < i + (xs.length + 1) ∧ j < n := by omega
        have h4 : j - i = (j - (i + 1)) + 1 := by omega
        rw [if_pos h2, if_pos h3, h4]; rfl
      · have h3 : ¬(i ≤ j ∧ j < i + (xs.length + 1) ∧ j < n) := by omega
        have h5 : ¬(j = i ∧ i < n) := by omega
        rw [if_neg h2, if_neg h3, if_neg h5]

/-- Two register files that read alike are equal. -/
theorem file_ext {n : Nat} (v w : Vector Word n) (h : ∀ i, i < n → fileRead v i = fileRead w i) : v = w := by
  apply Vector.ext
  intro i hi
  have := h i hi
  rwa [fileRead_lt _ _ hi, fileRead_lt _ _ hi] at this

/-- The words LOAD leaves: the block's as words 0 to 15, the others as they were (43_compression.md R240). -/
theorem fileRead_loadWords (W : Vector Word 64) (B : Vector Word 16) (j : Nat) :
    fileRead (loadWords W B) j = if j < 16 then fileRead B j else fileRead W j := by
  unfold loadWords
  rw [fileRead_fileWriteFrom]
  simp only [Vector.length_toList]
  by_cases h : j < 16
  · have h' : 0 ≤ j ∧ j < 0 + 16 ∧ j < 64 := by omega
    rw [if_pos h', if_pos h, fileRead_lt _ _ h]
    simp [List.getD, h]
  · have h' : ¬(0 ≤ j ∧ j < 0 + 16 ∧ j < 64) := by omega
    rw [if_neg h', if_neg h]

end Sys2Proof.Machine
end

