-- ==== Sys2Proof/Laws/Memory.lean ====
section
/-! SUPPORT. The laws of the message memory: a read after a write, and the canonical form kept by every operation. -/

namespace Sys2Proof.Machine

@[simp] theorem memRead_nil (p : Params) (a : Nat) : memRead p [] a = powerOnByte p a := rfl

/-- Reading past a cell that was written as `memCell` lists it. -/
theorem memRead_memCell_append (p : Params) (a b : Nat) (v : Byte) (m : Memory) :
    memRead p (memCell p a v ++ m) b =
      if b = a then (if v = powerOnByte p a then memRead p m b else v) else memRead p m b := by
  unfold memCell
  by_cases hv : v = powerOnByte p a <;> by_cases hb : b = a <;> simp [hv, hb, memRead]

/-- Below the first address of a canonical memory, a read gives what an unlisted address reads as. -/
theorem memRead_below (p : Params) (m : Memory) (a : Nat) (h : ∀ c ∈ m, a < c.1) :
    memRead p m a = powerOnByte p a := by
  induction m with
  | nil => rfl
  | cons c rest ih =>
    have hc : a ≠ c.1 := Nat.ne_of_lt (h c (by simp))
    simp only [memRead, if_neg hc]
    exact ih fun c' hc' => h c' (by simp [hc'])

/-- The head of a rising memory lies below the rest, and the rest rises. -/
theorem memRising_cons (c : Host.Cell) (m : Memory) :
    memRising (c :: m) = true ↔ (∀ x ∈ m, c.1 < x.1) ∧ memRising m = true := by
  induction m generalizing c with
  | nil => simp [memRising]
  | cons e rest ih =>
    simp only [memRising, Bool.and_eq_true, decide_eq_true_eq]
    constructor
    · rintro ⟨h1, h2⟩
      refine ⟨?_, h2⟩
      have := (ih e).1 h2
      intro x hx
      rcases List.mem_cons.1 hx with rfl | hx
      · exact h1
      · exact Nat.lt_trans h1 (this.1 x hx)
    · rintro ⟨h1, h2⟩
      exact ⟨h1 e (by simp), h2⟩

/-- The cells a write leaves are the old ones and the cell written. -/
theorem mem_memWrite (p : Params) (m : Memory) (a : Nat) (v : Byte) (c : Host.Cell)
    (h : c ∈ memWrite p m a v) : c ∈ m ∨ (c = (a, v) ∧ v ≠ powerOnByte p a) := by
  induction m with
  | nil =>
    unfold memWrite memCell at h
    split at h
    · simp at h
    · exact .inr ⟨by simpa using h, ‹_›⟩
  | cons e rest ih =>
    simp only [memWrite] at h
    have cell : ∀ x ∈ memCell p a v, x = (a, v) ∧ v ≠ powerOnByte p a := by
      intro x hx
      unfold memCell at hx
      split at hx
      · simp at hx
      · exact ⟨by simpa using hx, ‹_›⟩
    split at h
    · rcases List.mem_append.1 h with h | h
      · exact .inr (cell c h)
      · exact .inl h
    · split at h
      · rcases List.mem_append.1 h with h | h
        · exact .inr (cell c h)
        · exact .inl (List.mem_cons_of_mem _ h)
      · rcases List.mem_cons.1 h with h | h
        · exact .inl (by simp [h])
        · rcases ih h with h | h
          · exact .inl (List.mem_cons_of_mem _ h)
          · exact .inr h

theorem memRising_memCell_append (p : Params) (a : Nat) (v : Byte) (m : Memory) (hm : memRising m = true)
    (h : ∀ c ∈ m, a < c.1) : memRising (memCell p a v ++ m) = true := by
  unfold memCell
  split
  · simpa using hm
  · simpa using (memRising_cons (a, v) m).2 ⟨h, hm⟩

/-- A write keeps the addresses rising. -/
theorem memRising_memWrite (p : Params) (m : Memory) (a : Nat) (v : Byte) (h : memRising m = true) :
    memRising (memWrite p m a v) = true := by
  induction m with
  | nil => simpa [memWrite] using memRising_memCell_append p a v [] rfl (by simp)
  | cons e rest ih =>
    obtain ⟨h1, h2⟩ := (memRising_cons e rest).1 h
    simp only [memWrite]
    split
    · rename_i hlt
      refine memRising_memCell_append p a v _ h ?_
      intro c hc
      rcases List.mem_cons.1 hc with rfl | hc
      · exact hlt
      · exact Nat.lt_trans hlt (h1 c hc)
    · split
      · rename_i _ heq
        exact memRising_memCell_append p a v _ h2 (by simpa [heq] using h1)
      · rename_i hlt hne
        refine (memRising_cons _ _).2 ⟨?_, ih h2⟩
        intro c hc
        rcases mem_memWrite p rest a v c hc with hc | ⟨rfl, _⟩
        · exact h1 c hc
        · show e.1 < a
          omega

/-- Every write within the message memory keeps the canonical form. -/
theorem memWrite_wf (p : Params) (m : Memory) (a : Nat) (v : Byte) (ha : a < p.msgMemBytes.toNat)
    (h : Memory.wf p m = true) : Memory.wf p (memWrite p m a v) = true := by
  simp only [Memory.wf, Bool.and_eq_true, List.all_eq_true, decide_eq_true_eq, bne_iff_ne] at h ⊢
  refine ⟨memRising_memWrite p m a v h.1, ?_⟩
  intro c hc
  rcases mem_memWrite p m a v c hc with hc | ⟨rfl, hv⟩
  · exact h.2 c hc
  · exact ⟨ha, hv⟩

@[simp] theorem nil_wf (p : Params) : Memory.wf p [] = true := rfl

/-- A read after a write: the byte written at its address, and every other byte as before. -/
theorem memRead_memWrite (p : Params) (m : Memory) (a b : Nat) (v : Byte) (h : memRising m = true) :
    memRead p (memWrite p m a v) b = if b = a then v else memRead p m b := by
  induction m with
  | nil =>
    have := memRead_memCell_append p a b v []
    simp only [List.append_nil] at this
    simp only [memWrite, this, memRead_nil]
    split
    · subst b
      split
      · simp_all
      · rfl
    · rfl
  | cons e rest ih =>
    obtain ⟨h1, h2⟩ := (memRising_cons e rest).1 h
    simp only [memWrite]
    split
    · rename_i hlt
      rw [memRead_memCell_append]
      split
      · subst b
        split
        · rename_i hv
          rw [memRead_below p (e :: rest) a, hv]
          intro c hc
          rcases List.mem_cons.1 hc with rfl | hc
          · exact hlt
          · exact Nat.lt_trans hlt (h1 c hc)
        · rfl
      · rfl
    · split
      · rename_i _ heq
        rw [memRead_memCell_append]
        subst heq
        split
        · subst b
          split
          · rename_i hv
            rw [memRead_below p rest _ h1, hv]
          · rfl
        · rename_i hb
          simp [memRead, hb]
      · rename_i hlt hne
        simp only [memRead]
        rw [ih h2]
        by_cases hbe : b = e.1
        · have : b ≠ a := by omega
          rw [if_pos hbe, if_neg this, if_pos hbe]
        · simp [hbe]

theorem Memory.rising_of_wf {p : Params} {m : Memory} (h : Memory.wf p m = true) : memRising m = true := by
  simp only [Memory.wf, Bool.and_eq_true] at h
  exact h.1

end Sys2Proof.Machine
end

