-- ==== Sys2Proof/Laws/PerInstr.lean ====
section
/-! SUPPORT. What holds of every command of the opcode table as syntax, command by command. -/

namespace Sys2Proof.Laws.CommandWord

/-- The command is well formed, its word has RSV = 0 (30_encoding.md R110), and the decoder reads the command back from
the word as spec/opcode_table.json numbers its bits. -/
def Statement (i : Instr) : Prop :=
  i.wf = true ∧ rsvField (Sys2Proof.encode i) = 0 ∧ decodeTableWord 32 (Sys2Proof.encode i).toNat = some i

theorem nop : Statement .nop := by unfold Statement; decide

theorem init : Statement .init := by unfold Statement; decide

theorem compress : Statement .compress := by unfold Statement; decide

theorem hash : Statement .hash := by unfold Statement; decide

theorem clear : Statement .clear := by unfold Statement; decide

end Sys2Proof.Laws.CommandWord
end

