-- ==== Sys2Proof/Laws/Step.lean ====
section
/-! SUPPORT. What a step can do, said once: the inversion lemmas of the commands, the HOST's events, the ENGINE's step
and the step itself. Later proofs cite these and never unfold the step. -/

namespace Sys2Proof.Machine

/-! Command words. -/

theorem rsvField_toNat (v : Word) : (rsvField v).toNat = v.toNat / 16 := by
  unfold rsvField
  simp only [BitVec.extractLsb'_toNat, Nat.shiftRight_eq_div_pow]
  have := v.isLt
  omega

theorem opField_toNat (v : Word) : (opField v).toNat = v.toNat % 16 := by
  unfold opField
  simp [BitVec.extractLsb'_toNat]

/-- A command word is its OP field where RSV is zero (30_encoding.md R110). -/
theorem eq_of_fields {v : Word} {o : BitVec 4} (h1 : rsvField v = 0#28) (h2 : opField v = o) :
    v = BitVec.ofNat 32 o.toNat := by
  have a := congrArg BitVec.toNat h1
  have b := congrArg BitVec.toNat h2
  rw [rsvField_toNat] at a
  rw [opField_toNat] at b
  apply BitVec.eq_of_toNat_eq
  simp at a ⊢
  omega

/-- A word that decodes is the word of its command (30_encoding.md R112). -/
theorem encode_of_decodeWord {v : Word} {i : Instr} (h : decode v = .ok i) : v = encode i := by
  unfold decode at h
  split_ifs at h with h0 h1 h2 h3 h4 h5 <;> (injection h with h; subst h)
  · exact h0
  all_goals (push Not at h1; rw [eq_of_fields h1 (by assumption)]; rfl)

/-! The commands (40_commands.md). -/

/-- What any command does: it completes, changes only the device, and its device is one of these. -/
theorem exec_cases (i : Instr) (s : State) : ∃ d, exec i s = .next (s.withDev d) ∧
    ((i = .nop ∧ d = s.dev) ∨
     (i ≠ .nop ∧ s.dev.busy = true ∧ d = s.dev.raiseError .busyCmd) ∨
     (s.dev.busy = false ∧
       ((i = .init ∧ d = s.dev.initialise) ∨ (i = .compress ∧ d = s.dev.start .compress 1) ∨
        (i = .hash ∧ d = s.dev.acceptHash s.params) ∨ (i = .clear ∧ d = s.dev.clearFlags)))) := by
  cases i
  · exact ⟨s.dev, rfl, .inl ⟨rfl, rfl⟩⟩
  all_goals
    refine ⟨_, rfl, .inr ?_⟩
    cases hb : s.dev.busy
    · right; simp [Device.whenIdle_idle _ hb]
    · left; simp [Device.whenIdle_busy _ hb]

/-- What accepting or rejecting HASH leaves (40_commands.md R157). -/
theorem acceptHash_cases (p : Params) (d : Device) :
    (2 ^ 61 ≤ d.msgLen.toNat ∧ d.acceptHash p = d.raiseError .lengthOverflow) ∨
    (d.msgLen.toNat < 2 ^ 61 ∧ p.msgMemBytes.toNat < d.msgLen.toNat ∧ d.acceptHash p = d.raiseError .msgRange) ∨
    (d.msgLen.toNat < 2 ^ 61 ∧ d.msgLen.toNat ≤ p.msgMemBytes.toNat ∧
      d.acceptHash p = d.loadIV.start .hash (BitVec.ofNat 64 (nblocks d.msgLen.toNat))) := by
  unfold Device.acceptHash
  by_cases h1 : 2 ^ 61 ≤ d.msgLen.toNat
  · exact .inl ⟨h1, if_pos h1⟩
  · by_cases h2 : p.msgMemBytes.toNat < d.msgLen.toNat
    · exact .inr (.inl ⟨by omega, h2, by rw [if_neg h1, if_pos h2]⟩)
    · exact .inr (.inr ⟨by omega, by omega, by rw [if_neg h1, if_neg h2]⟩)

/-- What an illegal command word does (40_commands.md R152). -/
theorem execIllegal_eq (s : State) : execIllegal s =
    .next (s.withDev (s.dev.raiseError (if s.dev.busy then .busyCmd else .illegalCmd))) := by
  unfold execIllegal
  cases hb : s.dev.busy
  · simp [Device.whenIdle_idle _ hb]
  · simp [Device.whenIdle_busy _ hb]

/-- A write of CMD is a command or an illegal word. -/
theorem writeCmd_cases (v : Word) (s : State) :
    (∃ i, decode v = .ok i ∧ writeCmd v s = exec i s) ∨
    (∃ why, decode v = .error why ∧ writeCmd v s = execIllegal s) := by
  unfold writeCmd
  cases h : decode v with
  | ok i => exact .inl ⟨i, rfl, rfl⟩
  | error why => exact .inr ⟨why, rfl, rfl⟩

/-- The device after a HOST event, event by event: each line is one thing an event can do to the device and when. -/
inductive HostWrites (p : Params) (d : Device) : HostEvent → Device → Prop where
  /-- A read, WAIT, NOP, or a write of a read-only or unmapped offset. -/
  | nothing (e : HostEvent) : HostWrites p d e d
  | reset : HostWrites p d .reset d.reset
  | ctrl (v : Word) : HostWrites p d (transact (.wr Reg.ctrl.offset v)) (d.setCtrl v)
  | msgLenLo (v : Word) (hb : d.busy = false) :
      HostWrites p d (transact (.wr Reg.msgLenLo.offset v)) (d.setMsgLenLo v)
  | msgLenHi (v : Word) (hb : d.busy = false) :
      HostWrites p d (transact (.wr Reg.msgLenHi.offset v)) (d.setMsgLenHi v)
  | h (i : Fin 8) (v : Word) (hb : d.busy = false) :
      HostWrites p d (transact (.wr (Reg.h i).offset v)) (d.setH i v)
  | m (t : Fin 16) (v : Word) (hb : d.busy = false) :
      HostWrites p d (transact (.wr (Reg.m t).offset v)) (d.setM t v)
  | byte (a : Nat) (v : Byte) (hb : d.busy = false) (ha : a < p.msgMemBytes.toNat) :
      HostWrites p d (transact (.mwb a v)) (d.setByte p a v)
  | dropped (e : HostEvent) (hb : d.busy = true) (he : GuardedWrite e) :
      HostWrites p d e (d.raiseError .writeWhileBusy)
  | busyCommand (v : Word) (hb : d.busy = true) (hv : decode v ≠ .ok .nop) :
      HostWrites p d (.access (commandAccess v)) (d.raiseError .busyCmd)
  | illegal (v : Word) (why : IllegalWord) (hb : d.busy = false) (hv : decode v = .error why) :
      HostWrites p d (.access (commandAccess v)) (d.raiseError .illegalCmd)
  | init (hb : d.busy = false) : HostWrites p d (commandEvent .init) d.initialise
  | compress (hb : d.busy = false) : HostWrites p d (commandEvent .compress) (d.start .compress 1)
  | lengthOverflow (hb : d.busy = false) (hn : 2 ^ 61 ≤ d.msgLen.toNat) :
      HostWrites p d (commandEvent .hash) (d.raiseError .lengthOverflow)
  | msgRange (hb : d.busy = false) (hn : d.msgLen.toNat < 2 ^ 61) (hm : p.msgMemBytes.toNat < d.msgLen.toNat) :
      HostWrites p d (commandEvent .hash) (d.raiseError .msgRange)
  | hash (hb : d.busy = false) (hn : d.msgLen.toNat < 2 ^ 61) (hm : d.msgLen.toNat ≤ p.msgMemBytes.toNat) :
      HostWrites p d (commandEvent .hash) (d.loadIV.start .hash (BitVec.ofNat 64 (nblocks d.msgLen.toNat)))
  | clear (hb : d.busy = false) : HostWrites p d (commandEvent .clear) d.clearFlags

/-- What a write of CMD does (40_commands.md R150): the machine around the device stands. -/
theorem writeCmd_device {v : Word} {s t : State} (h : writeCmd v s = .next t) :
    t = s.withDev t.dev ∧ HostWrites s.params s.dev (.access (commandAccess v)) t.dev := by
  rcases writeCmd_cases v s with ⟨i, hd, hw⟩ | ⟨why, hd, hw⟩ <;> rw [hw] at h
  · have hv := encode_of_decodeWord hd
    obtain ⟨d, hx, hc⟩ := exec_cases i s
    rw [hx] at h
    injection h with h
    subst h
    refine ⟨rfl, ?_⟩
    rw [State.withDev_dev]
    rcases hc with ⟨-, rfl⟩ | ⟨hi, hb, rfl⟩ | ⟨hb, ⟨rfl, rfl⟩ | ⟨rfl, rfl⟩ | ⟨rfl, rfl⟩ | ⟨rfl, rfl⟩⟩
    · exact .nothing _
    · exact .busyCommand v hb (by simpa [hd] using hi)
    · exact hv ▸ .init hb
    · exact hv ▸ .compress hb
    · rw [hv]
      rcases acceptHash_cases s.params s.dev with ⟨h1, h'⟩ | ⟨h1, h2, h'⟩ | ⟨h1, h2, h'⟩ <;> rw [h']
      · exact .lengthOverflow hb h1
      · exact .msgRange hb h1 h2
      · exact .hash hb h1 h2
    · exact hv ▸ .clear hb
  · rw [execIllegal_eq] at h
    injection h with h
    subst h
    refine ⟨rfl, ?_⟩
    rw [State.withDev_dev]
    cases hb : s.dev.busy
    · exact .illegal v why hb hd
    · exact .busyCommand v hb (by simp [hd])

/-! The HOST's events. -/

/-- What a guarded write does (10_state.md R53). -/
theorem guarded_cases (w : Device → Device) (d : Device) : (d.busy = true ∧
    d.guarded w = d.raiseError .writeWhileBusy) ∨ (d.busy = false ∧ d.guarded w = w d) := by
  cases hb : d.busy
  · exact .inr ⟨rfl, d.guarded_idle w hb⟩
  · exact .inl ⟨rfl, d.guarded_busy w hb⟩

/-- What a guarded HOST write does to the device, given what it does when idle. -/
theorem guarded_writes {p : Params} {d : Device} {e : HostEvent} (w : Device → Device) (he : GuardedWrite e)
    (hw : d.busy = false → HostWrites p d e (w d)) : HostWrites p d e (d.guarded w) := by
  rcases guarded_cases w d with ⟨hb, h⟩ | ⟨hb, h⟩ <;> rw [h]
  · exact .dropped e hb he
  · exact hw hb

/-- What a write of a register other than CMD does to the device (10_state.md R57). -/
theorem writeReg_writes (p : Params) (r : Reg) (v : Word) (d : Device) :
    HostWrites p d (transact (.wr r.offset v)) (d.writeReg r v) := by
  cases r
  case ctrl => exact .ctrl v
  case msgLenLo => exact guarded_writes _ (.msgLenLo v) (.msgLenLo v)
  case msgLenHi => exact guarded_writes _ (.msgLenHi v) (.msgLenHi v)
  case h i => exact guarded_writes _ (.h i v) (.h i v)
  case m t => exact guarded_writes _ (.m t v) (.m t v)
  all_goals exact .nothing _

/-- An access that decodes keeps the contract and is the encoding of its transaction (30_encoding.md R120). -/
theorem encode_of_decode {p : Params} {b : BusAccess} {t : Transaction} (h : b.decode p = .ok t) :
    b = t.encode ∧ t.wf p = true := by
  obtain ⟨space, width, addr, op⟩ := b
  unfold BusAccess.decode at h
  cases hv : BusAccess.violation p ⟨space, width, addr, op⟩ with
  | some why => simp [hv] at h
  | none =>
    simp only [hv, Except.ok.injEq] at h
    subst h
    cases space <;> cases op <;> simp only [BusAccess.violation] at hv <;>
      simp only [BusAccess.transaction, Transaction.encode, Transaction.wf, offsetWf] <;>
      (repeat' split at hv) <;> simp_all
    rename_i data hd _ _
    apply BitVec.eq_of_toNat_eq
    simp
    omega

/-- The register found at an offset has that offset (10_state.md R57). -/
theorem offset_of_ofOffset {off : Nat} {r : Reg} (h : Reg.ofOffset off = some r) : off = r.offset := by
  have interface : ∀ k, interfaceRegs[k]? = some r → 4 * k = r.offset := by
    intro k hk
    have hl : k < 11 := (List.getElem?_eq_some_iff.1 hk).1
    interval_cases k <;> (injection hk with hk; subst hk; rfl)
  unfold Reg.ofOffset at h
  split at h
  · rename_i h4
    unfold Reg.ofIndex at h
    split_ifs at h
    · have := interface _ h
      omega
    all_goals (injection h with h; subst h; simp only [Reg.offset]; omega)
  · simp at h

/-- What a transaction does when it completes: a read returns a value, a write changes the device by its rule, and a write
of CMD is a command. -/
theorem perform_cases {t : Transaction} {s u : State} (h : perform t s = .next u) :
    (∃ r, u = s.reply r) ∨ u = s ∨ (∃ r v, t = .wr r.offset v ∧ u = s.withDev (s.dev.writeReg r v)) ∨
    (∃ a v, t = .mwb a v ∧ u = s.withDev (s.dev.guarded (Device.setByte s.params a v))) ∨
    (∃ v, t = .wr Reg.cmd.offset v ∧ writeCmd v s = .next u) := by
  cases t with
  | rd off => simp only [perform, transRd, Host.Outcome.next.injEq] at h; exact .inl ⟨_, h.symm⟩
  | mrb a => simp only [perform, transMrb, Host.Outcome.next.injEq] at h; exact .inl ⟨_, h.symm⟩
  | mwb a v =>
    simp only [perform, transMwb, Host.Outcome.next.injEq] at h
    exact .inr (.inr (.inr (.inl ⟨a, v, rfl, h.symm⟩)))
  | wr off v =>
    simp only [perform, transWr] at h
    split at h
    · exact .inr (.inl (by simpa using h.symm))
    · rename_i ho
      exact .inr (.inr (.inr (.inr ⟨v, by rw [offset_of_ofOffset ho], h⟩)))
    · rename_i r _ ho
      exact .inr (.inr (.inl ⟨r, v, by rw [offset_of_ofOffset ho], by simpa using h.symm⟩))

/-- What a HOST event does when it completes. -/
theorem hostEvent_cases {e : HostEvent} {s u : State} (h : hostEvent e s = .next u) :
    (e = .reset ∧ u = s.withDev s.dev.reset) ∨
    (e = .wait ∧ u.dev = s.dev ∧ u.params = s.params ∧ u.turns = s.turns ∧ u.tick = s.tick) ∨
    (∃ r, u = s.reply r) ∨ u = s ∨
    (∃ r v, e = transact (.wr r.offset v) ∧ u = s.withDev (s.dev.writeReg r v)) ∨
    (∃ a v, e = transact (.mwb a v) ∧ a < s.params.msgMemBytes.toNat ∧
      u = s.withDev (s.dev.guarded (Device.setByte s.params a v))) ∨
    (∃ v, e = .access (commandAccess v) ∧ writeCmd v s = .next u) := by
  cases e with
  | reset =>
    simp only [hostEvent, resetStep, Host.Outcome.next.injEq] at h
    exact .inl ⟨rfl, h.symm⟩
  | wait =>
    simp only [hostEvent, waitStep, Host.Outcome.next.injEq] at h
    subst h
    exact .inr (.inl ⟨rfl, rfl, rfl, rfl, rfl⟩)
  | access b =>
    simp only [hostEvent, busStep] at h
    split at h
    · rename_i t ht
      obtain ⟨hb, hw⟩ := encode_of_decode ht
      rcases perform_cases h with h' | h' | ⟨r, v, rfl, h'⟩ | ⟨a, v, rfl, h'⟩ | ⟨v, rfl, h'⟩
      · exact .inr (.inr (.inl h'))
      · exact .inr (.inr (.inr (.inl h')))
      · exact .inr (.inr (.inr (.inr (.inl ⟨r, v, by rw [hb]; rfl, h'⟩))))
      · exact .inr (.inr (.inr (.inr (.inr (.inl ⟨a, v, by rw [hb]; rfl, by simpa [Transaction.wf] using hw, h'⟩)))))
      · exact .inr (.inr (.inr (.inr (.inr (.inr ⟨v, by rw [hb]; rfl, h'⟩)))))
    · simp at h

/-- What an HOST event leaves of the machine around the device. -/
theorem hostEvent_params {e : HostEvent} {s u : State} (h : hostEvent e s = .next u) :
    u.params = s.params ∧ u.turns = s.turns ∧ u.tick = s.tick := by
  rcases hostEvent_cases h with ⟨-, rfl⟩ | ⟨-, -, h1, h2, h3⟩ | ⟨r, rfl⟩ | rfl | ⟨r, v, -, rfl⟩ |
    ⟨a, v, -, -, rfl⟩ | ⟨v, -, h⟩
  · simp
  · exact ⟨h1, h2, h3⟩
  · simp
  · simp
  · simp
  · simp
  · rw [(writeCmd_device h).1]
    simp

/-- No HOST event ends in a fault, and one ends in a refusal only on a broken host contract (60_exceptions.md R300). -/
theorem hostEvent_stops (e : HostEvent) (s : State) :
    (∃ u, hostEvent e s = .next u) ∨
    (∃ b why, e = .access b ∧ b.violation s.params = some why ∧ hostEvent e s = .refused (.hostContract why)) := by
  cases e with
  | reset => exact .inl ⟨_, rfl⟩
  | wait => exact .inl ⟨_, rfl⟩
  | access b =>
    cases hv : b.violation s.params with
    | some why => exact .inr ⟨b, why, rfl, hv, by simp [hostEvent, busStep, BusAccess.decode, hv]⟩
    | none =>
      left
      simp only [hostEvent, busStep, BusAccess.decode, hv]
      cases b.transaction with
      | rd off => exact ⟨_, rfl⟩
      | mrb a => exact ⟨_, rfl⟩
      | mwb a v => exact ⟨_, rfl⟩
      | wr off v =>
        simp only [perform, transWr]
        split
        · exact ⟨_, rfl⟩
        · rcases writeCmd_cases v s with ⟨i, -, hw⟩ | ⟨why, -, hw⟩
          · obtain ⟨d, hd, -⟩ := exec_cases i s
            exact ⟨_, by rw [hw, hd]⟩
          · exact ⟨_, by rw [hw, execIllegal_eq]⟩
        · exact ⟨_, rfl⟩

/-- What a HOST event does to the device when it completes. -/
theorem hostEvent_writes {e : HostEvent} {s t : State} (h : hostEvent e s = .next t) :
    HostWrites s.params s.dev e t.dev := by
  rcases hostEvent_cases h with ⟨rfl, rfl⟩ | ⟨-, h, -⟩ | ⟨r, rfl⟩ | rfl | ⟨r, v, rfl, rfl⟩ | ⟨a, v, rfl, ha, rfl⟩ |
    ⟨v, rfl, hw⟩
  · exact .reset
  · exact h ▸ .nothing e
  · exact .nothing e
  · exact .nothing e
  · exact writeReg_writes _ r v _
  · exact guarded_writes _ (.byte a v) fun hb => .byte a v hb ha
  · exact (writeCmd_device hw).2

/-! The ENGINE and the choice of the agent. -/

/-- When FOLD goes on to another block (43_compression.md R252). -/
theorem moreBlocks_iff (d : Device) : d.moreBlocks = true ↔ d.mode = .hash ∧ d.blk + 1 < d.nblk := by
  simp [Device.moreBlocks]

/-- What the ENGINE's micro-step does when it completes, one line per row of 43_compression.md R254. -/
theorem micro_cases {p : Params} {d e : Device} (h : d.micro p = .ok e) :
    (d.phase = .load ∧ (d.mode = .hash → d.frameReady p = true) ∧ e = d.load p) ∨
    (d.phase = .expand ∧ 16 ≤ d.cnt.toNat ∧ d.cnt.toNat < 63 ∧
    e = { d with W := expandWord d.W d.cnt.toNat, cnt := d.cnt + 1 }) ∨
    (d.phase = .expand ∧ d.cnt = 63 ∧
    e = { d with wv := seedVars d.H, W := expandWord d.W 63, cnt := 0, phase := .round }) ∨
    (d.phase = .round ∧ d.cnt.toNat < 63 ∧ e = { d with wv := roundVars d.W d.wv d.cnt.toNat, cnt := d.cnt + 1 }) ∨
    (d.phase = .round ∧ d.cnt = 63 ∧ e = { d with wv := roundVars d.W d.wv 63, cnt := 0, phase := .fold }) ∨
    (d.phase = .fold ∧ (d.mode = .hash ∧ d.blk + 1 < d.nblk) ∧
    e = { d with H := foldHash d.H d.wv, blk := d.blk + 1, phase := .load }) ∨
    (d.phase = .fold ∧ ¬(d.mode = .hash ∧ d.blk + 1 < d.nblk) ∧
    e = { d with H := foldHash d.H d.wv, busy := false, done := true, phase := .idle }) := by
  unfold Device.micro at h
  have hlt := d.cnt.isLt
  have c63 : ¬ d.cnt.toNat < 63 → d.cnt = 63 := fun h => BitVec.eq_of_toNat_eq (by simp; omega)
  rcases hp : d.phase with _ | _ | _ | _ | _ <;> simp only [hp] at h
  · simp at h
  · unfold Device.microLoad at h
    split at h
    · simp at h
    · rename_i hm; injection h with h
      refine .inl ⟨rfl, fun hm' => ?_, h.symm⟩
      simpa [hm'] using hm
  · unfold Device.microExpand at h
    split at h
    · simp at h
    · injection h with h; subst h
      unfold Device.expandStep
      by_cases h63 : d.cnt.toNat < 63
      · exact .inr (.inl ⟨rfl, by omega, h63, by rw [if_pos h63, hp]⟩)
      · refine .inr (.inr (.inl ⟨rfl, c63 h63, ?_⟩))
        rw [if_neg h63, c63 h63]; rfl
  · injection h with h; subst h
    unfold Device.microRound
    by_cases h63 : d.cnt.toNat < 63
    · exact .inr (.inr (.inr (.inl ⟨rfl, h63, by rw [if_pos h63, hp]⟩)))
    · refine .inr (.inr (.inr (.inr (.inl ⟨rfl, c63 h63, ?_⟩))))
      rw [if_neg h63, c63 h63]; rfl
  · injection h with h; subst h
    unfold Device.microFold
    by_cases hm : d.moreBlocks = true
    · exact .inr (.inr (.inr (.inr (.inr (.inl ⟨rfl, (moreBlocks_iff d).1 hm, by rw [if_pos hm]⟩)))))
    · exact .inr (.inr (.inr (.inr (.inr (.inr ⟨rfl, fun h => hm ((moreBlocks_iff d).2 h), by rw [if_neg hm]⟩)))))

/-- What the ENGINE's step does when it completes. -/
theorem engineStep_cases {s t : State} (h : engineStep s = .next t) :
    ∃ d, s.dev.micro s.params = .ok d ∧ t = s.withDev d := by
  unfold engineStep at h
  split at h
  · rename_i d hd
    exact ⟨d, hd, by simpa using h.symm⟩
  · simp at h

/-- What the choice of the agent says and leaves: the device, the parameters, the HOST's events and results. -/
theorem chooseAgent_cases (s : State) :
    (chooseAgent s = none ∧ s.dev.busy = false ∧ s.pending = []) ∨
    (∃ a s', chooseAgent s = some (a, s') ∧ s'.dev = s.dev ∧ s'.params = s.params ∧ s'.pending = s.pending ∧
      s'.results = s.results ∧ (a = .host → s.pending ≠ []) ∧ (a = .engine → s.dev.busy = true)) := by
  unfold chooseAgent
  cases hb : s.dev.busy <;> cases hp : s.pending
  · exact .inl ⟨rfl, rfl, rfl⟩
  · exact .inr ⟨.host, s, rfl, rfl, rfl, hp, rfl, by simp, by simp⟩
  · exact .inr ⟨.engine, s, rfl, rfl, rfl, hp, rfl, by simp, by simp⟩
  · right
    cases ht : s.turns with
    | nil => exact ⟨_, _, rfl, rfl, rfl, by simp, rfl, by simp, by simp⟩
    | cons a rest => exact ⟨_, _, rfl, rfl, rfl, by simp, rfl, by simp, by simp⟩

/-- The event of a HOST step, by name. -/
theorem hostNext_of_host {s s' : State} {e : HostEvent} {rest : List HostEvent} (hc : chooseAgent s = some (.host, s'))
    (hp : s'.pending = e :: rest) : s.hostNext = some e := by
  simp [State.hostNext, hc, hp]

/-- An ENGINE step, by name. -/
theorem engineNext_of_engine {s s' : State} (hc : chooseAgent s = some (.engine, s')) : s.engineNext = true := by
  simp [State.engineNext, hc]

/-- A step that completes is nothing at all, a HOST event, or a micro-step of the ENGINE. -/
theorem step_cases {s t : State} (h : step s = .next t) :
    (t = s ∧ s.dev.busy = false ∧ s.pending = []) ∨
    (∃ s' e rest, chooseAgent s = some (.host, s') ∧ s'.pending = e :: rest ∧ s'.dev = s.dev ∧ s'.params = s.params ∧
      hostEvent e (s'.withPending rest) = .next t) ∨
    (∃ s' d, chooseAgent s = some (.engine, s') ∧ s'.dev = s.dev ∧ s'.params = s.params ∧ s.dev.busy = true ∧
      s.dev.micro s.params = .ok d ∧ t = s'.withDev d) := by
  unfold step agentStep at h
  rcases chooseAgent_cases s with ⟨hc, hb, hp⟩ | ⟨a, s', hc, hd, hpa, hp, -, hh, he⟩
  · rw [hc] at h
    exact .inl ⟨by simpa using h.symm, hb, hp⟩
  · rw [hc] at h
    cases a with
    | host =>
      right; left
      simp only [hostStep] at h
      split at h
      · rename_i hn
        exact absurd (hp ▸ hn) (hh rfl)
      · rename_i e rest hq
        exact ⟨s', e, rest, hc, hq, hd, hpa, h⟩
    | engine =>
      right; right
      obtain ⟨d, hm, ht⟩ := engineStep_cases h
      exact ⟨s', d, hc, hd, hpa, he rfl, by rwa [hd, hpa] at hm, ht⟩

/-- No steps of the machine behind the host's interface. -/
theorem core_run_zero (s : State) : Sys2Proof.core.run 0 s = .next s := rfl

/-- A run whose first step goes on is the run of the steps left from there. -/
theorem core_run_succ {k : Nat} {s u : State} (h : step s = .next u) :
    Sys2Proof.core.run (k + 1) s = Sys2Proof.core.run k u := by
  have h' : Sys2Proof.core.step s = .next u := h
  simp only [Host.Core.run, h']

end Sys2Proof.Machine
end

