-- ==== Sys2Proof/Tests/Slice0.lean ====
section
/-! SUPPORT. Small tests with the values of spec/95_test_vectors.md, the smoke tests of the well-formedness checks, the
decode tests, and a witness for the hypotheses of every statement. -/

namespace Sys2Proof.Tests

open Sys2Proof Sys2Proof.Machine

/-! ## The states the tests start from -/

/-- The device of 95_test_vectors.md: MSG_MEM_BYTES = 4096. -/
def params4096 : Params where
  msgMemBytes := 4096
  msgMemInit := []

/-- Reset, idle. -/
def idle : State := State.resetOf params4096

/-- Idle with a message length. -/
def lengthState (n : DWord) : State := idle.withDev { idle.dev with msgLen := n }

/-- A running COMPRESS at LOAD. -/
def busy : State := idle.withDev (idle.dev.start .compress 1)

/-- A running HASH of n message bytes, at LOAD of block b. -/
def hashing (n : DWord) (b : DWord) : State :=
  idle.withDev { idle.dev.start .hash (BitVec.ofNat 64 (nblocks n.toNat)) with msgLen := n, blk := b }

/-- A running command at a given phase and counter. -/
def atPhase (s : State) (ph : Phase) (c : BitVec 6) : State := s.withDev { s.dev with phase := ph, cnt := c }

/-- What an outcome's next state satisfies; false of a fault or a refusal. -/
def lands (o : Host.Outcome State Fault Refusal) (P : State → Bool) : Bool :=
  match o with
  | .next s => P s
  | .fault _ => false
  | .refused _ => false

/-- An outcome is a given refusal. -/
def refuses (o : Host.Outcome State Fault Refusal) (why : BusViolation) : Bool :=
  match o with
  | .refused r => r == .hostContract why
  | .next _ => false
  | .fault _ => false

/-- An outcome is a given fault. -/
def faults (o : Host.Outcome State Fault Refusal) (why : Fault) : Bool :=
  match o with
  | .fault f => f == why
  | .next _ => false
  | .refused _ => false

/-! ## Well-formedness: an ill-formed term for each check (60_exceptions.md R300) -/

theorem test_wf_misaligned_read_refused : (Transaction.rd 0x006).wf params4096 = false := by decide

theorem test_wf_offset_past_the_map_refused : (Transaction.wr 0x1000 0).wf params4096 = false := by decide

theorem test_wf_memory_read_past_the_end_refused : (Transaction.mrb 4096).wf params4096 = false := by decide

theorem test_wf_memory_write_past_the_end_refused : (Transaction.mwb 4096 0).wf params4096 = false := by decide

theorem test_wf_empty_memory_refused : Params.wf { msgMemBytes := 0, msgMemInit := [] } = false := by decide

theorem test_wf_boundaries_accepted : (Transaction.rd 0xFFC).wf params4096 = true ∧
    (Transaction.mrb 4095).wf params4096 = true := by decide

theorem test_every_command_well_formed :
    [Instr.nop, .init, .compress, .hash, .clear].all Instr.wf = true := by decide

theorem test_memory_form_refuses_disorder : Memory.wf params4096 [(5, 1), (4, 1)] = false := by decide

theorem test_memory_form_refuses_a_default_byte : Memory.wf params4096 [(4, 0)] = false := by decide

theorem test_memory_form_refuses_an_address_past_the_end : Memory.wf params4096 [(4096, 1)] = false := by decide

theorem test_bus_register_width : refuses
    (busStep { space := .reg, width := 16, addr := 0, op := .read } idle) .registerWidth = true := by decide

theorem test_bus_register_range : refuses
    (busStep { space := .reg, width := 32, addr := 0x1000, op := .read } idle) .registerRange = true := by decide

theorem test_bus_register_alignment : refuses
    (busStep { space := .reg, width := 32, addr := 0x00A, op := .write 1 } idle) .registerAlignment = true := by decide

theorem test_bus_memory_width : refuses
    (busStep { space := .mem, width := 32, addr := 0, op := .read } idle) .memoryWidth = true := by decide

theorem test_bus_memory_range : refuses
    (busStep { space := .mem, width := 8, addr := 4096, op := .read } idle) .memoryRange = true := by decide

theorem test_bus_memory_data : refuses
    (busStep { space := .mem, width := 8, addr := 0, op := .write 256 } idle) .memoryData = true := by decide

/-! ## Decoding: words written out from the opcode map (30_encoding.md R112, R113; 95_test_vectors.md V6) -/

theorem test_decode_nop : decode 0b00000000000000000000000000000000#32 = .ok .nop := by rfl

theorem test_decode_init : decode 0b00000000000000000000000000000001#32 = .ok .init := by rfl

theorem test_decode_compress : decode 0b00000000000000000000000000000010#32 = .ok .compress := by rfl

theorem test_decode_hash : decode 0b00000000000000000000000000000011#32 = .ok .hash := by rfl

theorem test_decode_clear : decode 0b00000000000000000000000000000100#32 = .ok .clear := by rfl

theorem test_decode_reserved_opcodes :
    decode 0x00000005#32 = .error .reservedOpcode ∧ decode 0x0000000F#32 = .error .reservedOpcode := ⟨rfl, rfl⟩

theorem test_decode_reserved_bits :
    decode 0x00000010#32 = .error .reservedBits ∧ decode 0x00000013#32 = .error .reservedBits ∧
      decode 0x80000003#32 = .error .reservedBits ∧ decode 0xFFFFFFFF#32 = .error .reservedBits :=
  ⟨rfl, rfl, rfl, rfl⟩

/-- The bus encodings of 95_test_vectors.md P1. -/
theorem test_bus_encodings :
    (Transaction.mwb 0x1 0x62).encode = { space := .mem, width := 8, addr := 0x1, op := .write 0x62 } ∧
      commandAccess 3 = { space := .reg, width := 32, addr := 0x008, op := .write 3 } ∧
      (Transaction.wr Reg.msgLenLo.offset 3).encode =
        { space := .reg, width := 32, addr := 0x010, op := .write 3 } := by decide

/-- The register offsets of 10_state.md R57. -/
theorem test_register_offsets :
    [Reg.id, .ctrl, .cmd, .status, .msgLenLo, .msgLenHi, .memSize, .blkLo, .blkHi, .nblkLo, .nblkHi].map Reg.offset =
      [0x000, 0x004, 0x008, 0x00C, 0x010, 0x014, 0x018, 0x01C, 0x020, 0x024, 0x028] ∧
    [Reg.h 0, .h 7, .wv 0, .wv 7, .m 0, .m 15, .w 0, .w 63].map Reg.offset =
      [0x040, 0x05C, 0x060, 0x07C, 0x080, 0x0BC, 0x100, 0x1FC] := by decide

/-! ## The commands, one step each (95_test_vectors.md V6, V8, P5) -/

/-- P5 transaction 9: NOP leaves STATUS as it was (ERR = 3, IE = 1). -/
theorem test_nop_keeps_the_error : lands
    (step ((idle.withDev { idle.dev with ie := true, err := .illegalCmd }).withFetchWord 32 0))
    (fun t => t.dev.statusWord == 0x00001030) = true := by decide

/-- V6: NOP while busy raises no error. -/
theorem test_nop_while_busy : lands (step (busy.withFetchWord 32 0))
    (fun t => t.dev.statusWord == 0x00000101) = true := by decide

/-- P5 transaction 20: INIT loads IV; V4 gives IV as the seed. -/
theorem test_init_loads_iv : lands
    (step ((idle.withDev { idle.dev with H := Vector.replicate 8 0, done := true, mode := .hash }).withFetchWord 32 1))
    (fun t => t.dev.statusWord == 0x00000800 && t.dev.H.toList == [0x6a09e667, 0xbb67ae85, 0x3c6ef372, 0xa54ff53a,
      0x510e527f, 0x9b05688c, 0x1f83d9ab, 0x5be0cd19]) = true := by decide

/-- V6: INIT while busy raises 4. -/
theorem test_init_while_busy : lands (step (busy.withFetchWord 32 1))
    (fun t => t.dev.statusWord == 0x00000141) = true := by decide

/-- V6: STATUS after COMPRESS is accepted. -/
theorem test_compress_accepted : lands (step (idle.withFetchWord 32 2))
    (fun t => t.dev.statusWord == 0x00000101 && t.dev.nblk == 1) = true := by decide

/-- V6: COMPRESS while busy raises 4. -/
theorem test_compress_while_busy : lands (step (busy.withFetchWord 32 2))
    (fun t => t.dev.statusWord == 0x00000141) = true := by decide

/-- V8: MSG_LEN = 4096 is accepted; 41_padding_framing.md R192 gives 65 blocks. -/
theorem test_hash_accepted : lands (step ((lengthState 4096).withFetchWord 32 3))
    (fun t => t.dev.statusWord == 0x00000901 && t.dev.nblk == 65) = true := by decide

/-- V8: MSG_LEN = 2^62 raises 1, 2^61 − 1 and 4097 raise 2. -/
theorem test_hash_rejected :
    lands (step ((lengthState 0x4000000000000000).withFetchWord 32 3)) (fun t => t.dev.statusWord == 0x00000010) = true ∧
    lands (step ((lengthState 0x1FFFFFFFFFFFFFFF).withFetchWord 32 3)) (fun t => t.dev.statusWord == 0x00000020) = true ∧
    lands (step ((lengthState 4097).withFetchWord 32 3)) (fun t => t.dev.statusWord == 0x00000020) = true := by decide

/-- P5 transaction 19: CLEAR acknowledges DONE and ERR and keeps MODE. -/
theorem test_clear_acknowledges : lands
    (step ((idle.withDev { idle.dev with mode := .hash, done := true, err := .busyCmd }).withFetchWord 32 4))
    (fun t => t.dev.statusWord == 0x00000800) = true := by decide

/-- V6: CLEAR while busy raises 4. -/
theorem test_clear_while_busy : lands (step (busy.withFetchWord 32 4))
    (fun t => t.dev.statusWord == 0x00000141) = true := by decide

/-- V8, P5 12d: an illegal word raises 3 when idle and 4 when busy. -/
theorem test_illegal_word :
    lands (step (idle.withFetchWord 32 5)) (fun t => t.dev.statusWord == 0x00000030) = true ∧
    lands (step ((hashing 3 0).withFetchWord 32 5)) (fun t => t.dev.statusWord == 0x00000941) = true := by decide

/-! ## The HOST's accesses and the ENGINE's micro-steps -/

/-- P5 transactions 3 and 12a: ERR with IE set raises IRQ; MWB while busy raises 5 and stores nothing. -/
theorem test_byte_write_while_busy : lands
    (perform (.mwb 0 0x7a) ((hashing 3 0).withDev { (hashing 3 0).dev with ie := true, msgmem := [(0, 0x61)] }))
    (fun t => t.dev.statusWord == 0x00001951 && memRead t.params t.dev.msgmem 0 == 0x61) = true := by decide

/-- 20_memory.md R85: a byte written is read back, and writing what power-on left there removes the entry. -/
theorem test_byte_write :
    lands (perform (.mwb 1 0x62) (idle.withDev { idle.dev with msgmem := [(0, 0x61), (2, 0x63)] }))
      (fun t => t.dev.msgmem == [(0, 0x61), (1, 0x62), (2, 0x63)]) = true ∧
    lands (perform (.mwb 0 0) (idle.withDev { idle.dev with msgmem := [(0, 0x61), (2, 0x63)] }))
      (fun t => t.dev.msgmem == [(2, 0x63)]) = true := by decide

/-- 10_state.md R35, R47: ID and MEM_SIZE; 70_reset_and_hazards.md R331: H reads IV after reset. -/
theorem test_register_reads :
    [0x000, 0x018, 0x040, 0x05C].map (idle.dev.readOffset idle.params) =
      [0x53484132, 0x00001000, 0x6a09e667, 0x5be0cd19] := by decide

/-- V6: STATUS after LOAD and after the first EXPAND. -/
theorem test_load_and_expand_status :
    lands (engineStep busy) (fun t => t.dev.statusWord == 0x00100201) = true ∧
    lands (engineStep (atPhase busy .expand 16)) (fun t => t.dev.statusWord == 0x00110201) = true := by decide

/-- 41_padding_framing.md R200, V3: the framed block of "abc". -/
theorem test_load_frames_abc : lands
    (engineStep ((hashing 3 0).withDev { (hashing 3 0).dev with msgmem := [(0, 0x61), (1, 0x62), (2, 0x63)] }))
    (fun t => fileRead t.dev.W 0 == 0x61626380 && fileRead t.dev.W 1 == 0 && fileRead t.dev.W 15 == 0x18) = true := by
  decide +kernel

/-- V3: W[18] of "abc" from its block. -/
theorem test_schedule_word :
    scheduleWord (fileWrite (fileWrite (loadWords (Vector.replicate 64 0)
      #v[0x61626380, 0, 0, 0, 0, 0, 0, 0, 0, 0, 0, 0, 0, 0, 0, 0x18]) 16 0x61626380) 17 0x000f0000) 18 =
        0x7da86405 := by decide +kernel

/-- V4: round 0 of "abc". -/
theorem test_round_zero :
    roundVars (fileWrite (Vector.replicate 64 0) 0 0x61626380) (seedVars initialHash) 0 =
      { a := 0x5d6aebcd, b := 0x6a09e667, c := 0xbb67ae85, d := 0x3c6ef372,
        e := 0xfa2a4622, f := 0x510e527f, g := 0x9b05688c, h := 0x1f83d9ab } := by decide

/-- V4: FOLD of "abc", and STATUS at the end of P1. -/
theorem test_fold : lands
    (engineStep ((atPhase (hashing 3 0) .fold 0).withDev { (atPhase (hashing 3 0) .fold 0).dev with
      wv := { a := 0x506e3058, b := 0xd39a2165, c := 0x04d24d6c, d := 0xb85e2ce9,
              e := 0x5ef50f24, f := 0xfb121210, g := 0x948d25b6, h := 0x961f4894 } }))
    (fun t => t.dev.statusWord == 0x00000802 && t.dev.H.toList == [0xba7816bf, 0x8f01cfea, 0x414140de, 0x5dae2223,
      0xb00361a3, 0x96177a9c, 0xb410ff61, 0xf20015ad]) = true := by decide

/-- V1.2: the digest of "abc". -/
theorem test_digest_of_abc : (sha256Words [0x61, 0x62, 0x63]).toList =
    [0xba7816bf, 0x8f01cfea, 0x414140de, 0x5dae2223, 0xb00361a3, 0x96177a9c, 0xb410ff61, 0xf20015ad] := by
  decide +kernel

/-! ## Witnesses: for each statement with hypotheses, a state and operands that meet them, clause by clause -/

theorem witness_IllegalWordsRaiseAnErrorAndDoNothingElse :
    idle.dev.busy = false ∧ busy.dev.busy = true ∧ decode 5#32 = .error .reservedOpcode ∧
      decode 0x10#32 = .error .reservedBits := ⟨rfl, rfl, rfl, rfl⟩

/-- Every unmapped range at its first and last offset, and the mapped offsets next to them. -/
theorem witness_UnmappedOffsetsReadZeroAndIgnoreWrites :
    ([0x02C, 0x03C, 0x0C0, 0x0FC, 0x200, 0xFFC].all fun off =>
      off % 4 == 0 && decide (off < 0x1000) && (Reg.ofOffset off).isNone) = true ∧
    ([0x000, 0x028, 0x040, 0x0BC, 0x100, 0x1FC].all fun off =>
      off % 4 == 0 && decide (off < 0x1000) && (Reg.ofOffset off).isSome) = true := by decide

theorem witness_BusAccessesOutsideTheContractAreRefused :
    (Transaction.rd 0xFFC).wf idle.params = true ∧ (Transaction.wr 0 1).wf idle.params = true ∧
      (Transaction.mrb 0).wf idle.params = true ∧ (Transaction.mwb 4095 0xFF).wf idle.params = true := by decide

/-- A message-memory width below 8, at which the refusal is the model's choice (log 16), and the one above. -/
theorem witness_memory_widths_refused :
    ([0, 1, 4, 7, 9].all fun w =>
      refuses (busStep { space := .mem, width := w, addr := 0, op := .read } idle) .memoryWidth) = true := by decide

/-- Each of the six clauses. -/
theorem witness_EitherAgentMayComeNext :
    (idle.dev.busy = false ∧ idle.pending = []) ∧
    ((idle.withPending [.wait]).dev.busy = false ∧ (idle.withPending [.wait]).pending = [.wait]) ∧
    (busy.dev.busy = true ∧ busy.pending = []) ∧
    (∀ a : Agent, ({ busy with pending := [.reset], turns := [a] } : State).dev.busy = true ∧
      ({ busy with pending := [.reset], turns := [a] } : State).pending = [.reset] ∧
      ({ busy with pending := [.reset], turns := [a] } : State).turns = [a]) ∧
    ((busy.withPending [.wait]).dev.busy = true ∧ (busy.withPending [.wait]).pending = [.wait] ∧
      (busy.withPending [.wait]).turns = []) :=
  ⟨⟨rfl, rfl⟩, ⟨rfl, rfl⟩, ⟨rfl, rfl⟩, fun _ => ⟨rfl, rfl, rfl⟩, ⟨rfl, rfl, rfl⟩⟩

/-- Idle with a command and with an illegal word, and busy with the HOST's turn next. -/
theorem witness_StepRunsTheDecodedCommand :
    (chooseAgent (idle.withPending [.access (commandAccess 3)]) =
        some (.host, idle.withPending [.access (commandAccess 3)]) ∧ decode 3#32 = .ok .hash) ∧
    (chooseAgent { busy with pending := [.access (commandAccess 5)], turns := [.host] } =
        some (.host, { busy with pending := [.access (commandAccess 5)], turns := [] }) ∧
      decode 5#32 = .error .reservedOpcode) := ⟨⟨rfl, rfl⟩, ⟨rfl, rfl⟩⟩

theorem witness_CommandDispatchChecksInOrder :
    decode 0#32 = .ok .nop ∧ (decode 1#32 = .ok .init ∧ busy.dev.busy = true) ∧
      (decode 0x13#32 = .error .reservedBits ∧ busy.dev.busy = true) ∧
      (decode 0x13#32 = .error .reservedBits ∧ idle.dev.busy = false) ∧
      (decode 4#32 = .ok .clear ∧ idle.dev.busy = false) :=
  ⟨rfl, ⟨rfl, rfl⟩, ⟨rfl, rfl⟩, ⟨rfl, rfl⟩, ⟨rfl, rfl⟩⟩

theorem witness_NopHasNoEffect : opField 0x10 = 0 ∧ rsvField 0x10 ≠ 0 := by decide

theorem witness_InitLoadsTheInitialHash :
    idle.dev.busy = false ∧ busy.dev.busy = true ∧
      exec .init idle = .next (idle.withDev (idle.dev.whenIdle Device.initialise)) := ⟨rfl, rfl, rfl⟩

theorem witness_CompressIsAcceptedWhenIdle : idle.dev.busy = false ∧ busy.dev.busy = true := ⟨rfl, rfl⟩

/-- The lengths where the clauses meet: 2^61, 2^61 − 1, 4097, 4096 and 0. -/
theorem witness_HashChecksTheLengthThenStarts :
    (idle.dev.busy = false ∧ busy.dev.busy = true) ∧
    2 ^ 61 ≤ (lengthState 0x2000000000000000).dev.msgLen.toNat ∧
    ((lengthState 0x1FFFFFFFFFFFFFFF).dev.msgLen.toNat < 2 ^ 61 ∧
      params4096.msgMemBytes.toNat < (lengthState 0x1FFFFFFFFFFFFFFF).dev.msgLen.toNat) ∧
    params4096.msgMemBytes.toNat < (lengthState 4097).dev.msgLen.toNat ∧
    ((lengthState 4096).dev.msgLen.toNat < 2 ^ 61 ∧
      (lengthState 4096).dev.msgLen.toNat ≤ params4096.msgMemBytes.toNat) ∧
    (lengthState 0).dev.msgLen.toNat ≤ params4096.msgMemBytes.toNat := by decide

theorem witness_ClearAcknowledges : idle.dev.busy = false ∧ busy.dev.busy = true := ⟨rfl, rfl⟩

theorem witness_CommandsKeepTheirFrame : (Instr.compress = .nop ∨ Instr.compress = .compress ∨ Instr.compress = .clear) ∧
    (Instr.init = .nop ∨ Instr.init = .init ∨ Instr.init = .clear) := by decide

theorem witness_RegisterReadsReturnTheValueAndChangeNothing :
    (0x000 % 4 = 0 ∧ 0x000 < 0x1000) ∧ (0xFFC % 4 = 0 ∧ 0xFFC < 0x1000) := by decide

theorem witness_MemoryReadsReturnTheByteAndChangeNothing :
    4095 < idle.params.msgMemBytes.toNat ∧ idle.params.msgMemBytes.toNat ≤ 4096 := by decide

theorem witness_GuardedWritesWhileBusyAreDropped : busy.dev.busy = true ∧ 4095 < busy.params.msgMemBytes.toNat := by
  decide

theorem witness_GuardedWritesWhenIdleStore : idle.dev.busy = false := rfl

theorem witness_ReadOnlyRegistersIgnoreWrites :
    [Reg.id, .status, .memSize, .blkLo, .blkHi, .nblkLo, .nblkHi, .wv 0, .wv 7, .w 0, .w 63].all Reg.readOnly = true := by
  decide

theorem witness_MemoryWriteStoresOneByte :
    (Memory.wf idle.params idle.dev.msgmem = true ∧ idle.dev.busy = false ∧ 4095 < idle.params.msgMemBytes.toNat) ∧
    (Memory.wf busy.params busy.dev.msgmem = true ∧ busy.dev.busy = true ∧ 0 < busy.params.msgMemBytes.toNat) ∧
    idle.params.msgMemBytes.toNat ≤ 4096 := by decide

theorem witness_MemoriesThatReadAlikeAreEqual :
    Memory.wf params4096 [(0, 1), (4095, 2)] = true ∧
      ∀ a : Nat, memRead params4096 [(0, 1), (4095, 2)] a = memRead params4096 [(0, 1), (4095, 2)] a :=
  ⟨by decide, fun _ => rfl⟩

/-- A COMPRESS, and HASH at the longest message that fits, at its first and last block. -/
theorem witness_LoadBringsTheBlockIn :
    (busy.dev.busy = true ∧ busy.dev.phase = .load ∧ busy.dev.mode = .compress) ∧
    ([0, 64].all fun b => (hashing 4096 b).dev.busy && (hashing 4096 b).dev.phase == .load &&
      (hashing 4096 b).dev.mode == .hash && decide ((hashing 4096 b).dev.msgLen.toNat < 2 ^ 61) &&
      decide ((hashing 4096 b).dev.msgLen.toNat ≤ params4096.msgMemBytes.toNat) &&
      decide ((hashing 4096 b).dev.blk.toNat < nblocks (hashing 4096 b).dev.msgLen.toNat)) = true := by decide

/-- The first word, the last but one and the last. -/
theorem witness_ExpandComputesTheNextScheduleWord :
    ([16, 62, 63].all fun c => (atPhase busy .expand c).dev.busy && (atPhase busy .expand c).dev.phase == .expand &&
      decide (16 ≤ (atPhase busy .expand c).dev.cnt.toNat)) = true ∧
    (atPhase busy .expand 62).dev.cnt.toNat < 63 ∧ (atPhase busy .expand 63).dev.cnt.toNat = 63 := by decide

theorem witness_RoundUpdatesTheWorkingVariables :
    ([0, 62, 63].all fun c => (atPhase busy .round c).dev.busy && (atPhase busy .round c).dev.phase == .round) = true ∧
    (atPhase busy .round 62).dev.cnt.toNat < 63 ∧ (atPhase busy .round 63).dev.cnt.toNat = 63 := by decide

/-- A two-block HASH at its first and at its last block, and a COMPRESS. -/
theorem witness_FoldAddsIntoTheHashState :
    ([atPhase (hashing 56 0) .fold 0, atPhase (hashing 56 1) .fold 0, atPhase busy .fold 0].all fun s =>
      s.dev.busy && s.dev.phase == .fold) = true ∧
    ((hashing 56 0).dev.mode = .hash ∧ (hashing 56 0).dev.blk + 1 < (hashing 56 0).dev.nblk) ∧
    ¬((hashing 56 1).dev.mode = .hash ∧ (hashing 56 1).dev.blk + 1 < (hashing 56 1).dev.nblk) ∧
    ¬(busy.dev.mode = .hash ∧ busy.dev.blk + 1 < busy.dev.nblk) := by decide

/-- The invariant of a device from its decidable fields. -/
theorem inv_idle : MachineInv idle := ⟨by decide, by constructor <;> decide⟩

theorem inv_busy : MachineInv busy := ⟨by decide, by constructor <;> decide⟩

theorem inv_length : MachineInv (lengthState 3) := ⟨by decide, by constructor <;> decide⟩

/-- A running device at each phase, at the ends of CNT. -/
theorem witness_SequencerFollowsItsTable :
    (busy.dev.Inv busy.params ∧ busy.dev.busy = true ∧ busy.dev.micro busy.params = .ok (busy.dev.load busy.params)) ∧
    ((atPhase busy .expand 63).dev.Inv busy.params ∧
      (atPhase busy .expand 63).dev.micro busy.params = .ok (atPhase busy .expand 63).dev.expandStep) ∧
    ((atPhase busy .round 63).dev.Inv busy.params ∧
      (atPhase busy .round 63).dev.micro busy.params = .ok (atPhase busy .round 63).dev.microRound) ∧
    ((atPhase busy .fold 0).dev.Inv busy.params ∧
      (atPhase busy .fold 0).dev.micro busy.params = .ok (atPhase busy .fold 0).dev.microFold) ∧
    (hostEvent .wait idle = waitStep idle ∧ HostEvent.wait ≠ .reset) :=
  ⟨⟨inv_busy.device, rfl, rfl⟩, ⟨by constructor <;> decide, rfl⟩, ⟨by constructor <;> decide, rfl⟩,
    ⟨by constructor <;> decide, rfl⟩, ⟨rfl, by decide⟩⟩

/-- An ENGINE step and an idle step. -/
theorem witness_StepKeepsTheInvariant :
    (MachineInv busy ∧ step busy = .next (busy.withDev (busy.dev.load busy.params))) ∧
    (MachineInv idle ∧ step idle = .next idle) := ⟨⟨inv_busy, rfl⟩, ⟨inv_idle, rfl⟩⟩

theorem witness_ResetMeetsTheInvariant : params4096.wf = true := by decide

/-- A state that meets the invariant and whose next access breaks the contract. -/
theorem witness_OnlyContractViolationsStopTheMachine :
    MachineInv (idle.withPending [.access { space := .reg, width := 8, addr := 0, op := .read }]) ∧
    step (idle.withPending [.access { space := .reg, width := 8, addr := 0, op := .read }]) =
      .refused (.hostContract .registerWidth) := ⟨⟨by decide, by constructor <;> decide⟩, rfl⟩

theorem witness_HostCannotDisturbARunningCommand :
    busy.dev.busy = true ∧ commandEvent .clear ≠ .reset ∧
      hostEvent (commandEvent .clear) busy = .next (busy.withDev (busy.dev.raiseError .busyCmd)) :=
  ⟨rfl, by decide, rfl⟩

theorem witness_DoneRisesOnlyAtTheLastFold :
    step (atPhase busy .fold 0) = .next ((atPhase busy .fold 0).withDev (atPhase busy .fold 0).dev.microFold) ∧
    (atPhase busy .fold 0).dev.done = false ∧ (atPhase busy .fold 0).dev.microFold.done = true := ⟨rfl, rfl, rfl⟩

theorem witness_ParametersNeverChange : step busy = .next (busy.withDev (busy.dev.load busy.params)) := rfl

/-- A step of each of the ENGINE's writers, none a reset. -/
theorem witness_EachRegisterHasItsOnlyWriters_engine :
    ([busy, atPhase busy .expand 63, atPhase busy .round 0, atPhase busy .fold 0, atPhase (hashing 56 0) .fold 0].all
      fun s => !s.resetNext && s.engineNext && lands (step s) fun t => t.dev != s.dev) = true := by decide +kernel

/-- A step of each of the HOST's writers, idle, which changes the device and is no reset. -/
theorem witness_EachRegisterHasItsOnlyWriters_host :
    ([transact (.wr (Reg.h 7).offset 1), transact (.wr (Reg.m 15).offset 1), transact (.wr Reg.msgLenLo.offset 1),
      transact (.wr Reg.msgLenHi.offset 1), transact (.wr Reg.ctrl.offset 1), transact (.mwb 4095 1),
      .access (commandAccess 5), commandEvent .compress, commandEvent .hash].all fun e =>
        !(idle.withPending [e]).resetNext && (idle.withPending [e]).hostNext == some e &&
          lands (step (idle.withPending [e])) fun t => t.dev != idle.dev) = true := by decide +kernel

/-- INIT and CLEAR after an error; HASH rejected for its length; a command and a write dropped while busy. -/
theorem witness_EachRegisterHasItsOnlyWriters_errors :
    ([((idle.withDev (idle.dev.raiseError .busyCmd)).withPending [commandEvent .init]),
      ((idle.withDev (idle.dev.raiseError .busyCmd)).withPending [commandEvent .clear]),
      ((lengthState 0x2000000000000000).withPending [commandEvent .hash]),
      ((lengthState 4097).withPending [commandEvent .hash]),
      { busy with pending := [commandEvent .clear], turns := [.host] },
      { busy with pending := [transact (.mwb 0 1)], turns := [.host] }].all fun s =>
        !s.resetNext && lands (step s) fun t => t.dev.err != s.dev.err) = true := by decide +kernel

theorem witness_CommandInputsAreImmutable :
    busy.dev.busy = true ∧ CommandRun 1 busy (busy.withDev (busy.dev.load busy.params)) :=
  ⟨rfl, .engine (.start _) rfl rfl⟩

/-- k steps of the ENGINE alone. -/
def alone : Nat → State → State
  | 0, s => s
  | k + 1, s =>
    match s.dev.micro s.params with
    | .ok d => alone k (s.withDev d)
    | .error _ => s

/-- The command runs through those k steps, with nothing pending. -/
def runsAlone : Nat → State → Bool
  | 0, _ => true
  | k + 1, s =>
    s.dev.busy && s.pending.isEmpty &&
      match s.dev.micro s.params with
      | .ok d => runsAlone k (s.withDev d)
      | .error _ => false

theorem commandRun_cons {k : Nat} {s u t : State} (h : CommandRun k u t) (hc : chooseAgent s = some (.engine, s))
    (hs : step s = .next u) : CommandRun (k + 1) s t := by
  induction h with
  | start _ => exact .engine (.start _) hc hs
  | engine _ hc' hs' ih => exact .engine (ih hs) hc' hs'
  | host _ hb hc' hr hs' ih => exact .host (ih hs) hb hc' hr hs'

theorem commandRun_alone {k : Nat} {s : State} (h : runsAlone k s = true) : CommandRun k s (alone k s) := by
  induction k generalizing s with
  | zero => exact .start s
  | succ k ih =>
    simp only [runsAlone, Bool.and_eq_true, List.isEmpty_iff] at h
    obtain ⟨⟨hb, hp⟩, h⟩ := h
    cases hm : s.dev.micro s.params with
    | error f => simp [hm] at h
    | ok d =>
      rw [hm] at h
      have hc : chooseAgent s = some (.engine, s) := by simp [chooseAgent, hb, hp]
      have hs : step s = .next (s.withDev d) := by simp [step, agentStep, hc, engineStep, hm]
      simpa [alone, hm] using commandRun_cons (ih h) hc hs

/-- A COMPRESS from reset, run to its end. -/
theorem witness_CompressComputesTheCompressionFunction :
    MachineInv idle ∧ idle.dev.busy = false ∧ exec .compress idle = .next busy ∧
      CommandRun 114 busy (alone 114 busy) ∧ (alone 114 busy).dev.busy = false :=
  ⟨inv_idle, rfl, rfl, commandRun_alone (by decide +kernel), by decide +kernel⟩

/-- A HASH of three bytes, run to its end. -/
theorem witness_HashComputesSha256 :
    MachineInv (lengthState 3) ∧ (lengthState 3).dev.busy = false ∧
      exec .hash (lengthState 3) = .next (hashing 3 0) ∧ (hashing 3 0).dev.busy = true ∧
      CommandRun 114 (hashing 3 0) (alone 114 (hashing 3 0)) ∧ (alone 114 (hashing 3 0)).dev.busy = false :=
  ⟨inv_length, rfl, rfl, rfl, commandRun_alone (by decide +kernel), by decide +kernel⟩

theorem witness_CommandsTakeExactly114StepsPerBlock :
    (MachineInv idle ∧ idle.dev.busy = false ∧ exec .compress idle = .next busy ∧ busy.dev.busy = true) ∧
    (MachineInv busy ∧ CommandRun 0 busy busy) ∧
    (CommandRun 114 busy (alone 114 busy) ∧ (alone 114 busy).dev.busy = false) :=
  ⟨⟨inv_idle, rfl, rfl, rfl⟩, ⟨inv_busy, .start _⟩, witness_CompressComputesTheCompressionFunction.2.2.2⟩

theorem witness_EngineAloneCompletesTheCommand :
    MachineInv busy ∧ busy.dev.busy = true ∧ busy.pending = [] ∧ busy.dev.stepsLeft = 114 :=
  ⟨inv_busy, rfl, rfl, by decide⟩

/-- A command at its last step whose turn is the ENGINE's, with `WAIT` pending. -/
theorem witness_WaitEndsWhenTheEngineIsScheduled :
    MachineInv { atPhase busy .fold 0 with pending := [.wait], turns := [.host, .engine] } ∧
    (atPhase busy .fold 0).dev.stepsLeft ≤ [Agent.host, .engine].count .engine :=
  ⟨⟨by decide, by constructor <;> decide⟩, by decide⟩

theorem witness_SetLenWritesTheLength :
    idle.dev.busy = false ∧ (idle.withPending (setLen 56 ++ [.wait])).pending = setLen 56 ++ [.wait] := ⟨rfl, rfl⟩

/-- Three bytes that end at the last address. -/
theorem witness_PutMsgWritesTheMessage :
    Memory.wf idle.params idle.dev.msgmem = true ∧ idle.dev.busy = false ∧
    4093 + [(0x61 : Byte), 0x62, 0x63].length ≤ idle.params.msgMemBytes.toNat ∧
    (idle.withPending (putMsg 4093 [0x61, 0x62, 0x63] ++ [.wait])).pending = putMsg 4093 [0x61, 0x62, 0x63] ++ [.wait] :=
  ⟨by decide, rfl, by decide, rfl⟩

theorem witness_GetHReturnsTheEightWords :
    idle.dev.busy = false ∧ (idle.withPending (getH ++ [])).pending = getH ++ [] := ⟨rfl, rfl⟩

theorem witness_RotationIsNotShift :
    (0 < 1 ∧ 1 < 32 ∧ 31 < 32) ∧ (0 < 31 ∧ 31 < 32 ∧ 0 < 32) := by decide

theorem witness_ScheduleMeetsItsRecurrence : (16 ≤ 16 ∧ 16 < 64) ∧ (16 ≤ 63 ∧ 63 < 64) := by decide

theorem witness_BlockCountIsTheLeast : 2 ^ 61 - 1 < 2 ^ 61 := by decide

theorem witness_FramedBytesAreThePaddedStream : 127 < 64 * nblocks (List.replicate 56 (0x61 : Byte)).length := by decide

theorem witness_PaddedBytesAreThePaddedBitStream : (List.replicate 3 (0x61 : Byte)).length < 2 ^ 61 := by decide

theorem witness_ConstantsAreRootsOfPrimes : 311 ≤ 311 := by decide

end Sys2Proof.Tests
end

section
/-! PROOFS. The word operations of 00_scope.md R12 and R13: what a shift and a rotation do to each bit, and what packing
and unpacking bytes do to the number. -/

namespace Sys2Proof.Machine

/-! ## Shift and rotation (00_scope.md R12) -/

theorem getLsbD_shr (x : Word) (n i : Nat) :
    (shr x n).getLsbD i = (decide (i + n < 32) && x.getLsbD (i + n)) := by
  rw [shr, BitVec.getLsbD_ushiftRight, Nat.add_comm n i]
  by_cases h : i + n < 32
  · simp [h]
  · simp [h, BitVec.getLsbD_of_ge x (i + n) (by omega)]

/-- On the amounts R12 gives it a meaning for, the spec's rotation is the library's. -/
theorem rotr_eq_rotateRight (x : Word) {n : Nat} (hn : n < 32) : rotr x n = x.rotateRight n := by
  rw [rotr, shr, shl, BitVec.rotateRight_def, Nat.mod_eq_of_lt hn]

/-- The bits below 32 − n come from n places further up; the n bits above them are the low bits come round. -/
theorem getLsbD_rotr (x : Word) {n i : Nat} (hn : n < 32) (hi : i < 32) :
    (rotr x n).getLsbD i = x.getLsbD ((i + n) % 32) := by
  rw [rotr_eq_rotateRight x hn, BitVec.getLsbD_rotateRight_of_lt hn]
  by_cases h : i < 32 - n
  · have stays : (i + n) % 32 = n + i := by omega
    simp [h, stays]
  · have wraps : (i + n) % 32 = i - (32 - n) := by omega
    simp [h, hi, wraps]

/-- Settles O51: the two halves are the bit lemmas of the two operations. -/
theorem rotationIsNotShift : Obligations.RotationIsNotShift := by
  unfold Obligations.RotationIsNotShift
  exact fun x n i _ hn hi => ⟨getLsbD_rotr x hn hi, getLsbD_shr x n i⟩

/-! ## Byte packing (00_scope.md R13) -/

/-- Concatenation as arithmetic: the left part is scaled by the right part's width. -/
theorem toNat_append_eq_mul_add {m n : Nat} (x : BitVec m) (y : BitVec n) :
    (x ++ y).toNat = x.toNat * 2 ^ n + y.toNat := by
  rw [BitVec.toNat_append, ← Nat.shiftLeft_add_eq_or_of_lt y.isLt, Nat.shiftLeft_eq]

/-- Extraction as arithmetic: a field is a quotient taken modulo its width. -/
theorem toNat_extractLsb'_eq_div_mod {n : Nat} (start len : Nat) (x : BitVec n) :
    (x.extractLsb' start len).toNat = x.toNat / 2 ^ start % 2 ^ len := by
  rw [BitVec.extractLsb'_toNat, Nat.shiftRight_eq_div_pow]

theorem toNat_be32 (b0 b1 b2 b3 : Byte) :
    (be32 b0 b1 b2 b3).toNat = b0.toNat * 2 ^ 24 + b1.toNat * 2 ^ 16 + b2.toNat * 2 ^ 8 + b3.toNat := by
  simp only [be32, toNat_append_eq_mul_add]
  omega

theorem toNat_byteOf (k : Nat) (x : Word) : (byteOf k x).toNat = x.toNat / 2 ^ (24 - 8 * k) % 256 :=
  toNat_extractLsb'_eq_div_mod (24 - 8 * k) 8 x

theorem toNat_be64Byte (k : Nat) (len : DWord) :
    (be64Byte k len).toNat = len.toNat / 2 ^ (56 - 8 * k) % 256 :=
  toNat_extractLsb'_eq_div_mod (56 - 8 * k) 8 len

/-- The four bytes are adjacent fields, so they join from the top down to the whole word. -/
theorem be32_byteOf (x : Word) : be32 (byteOf 0 x) (byteOf 1 x) (byteOf 2 x) (byteOf 3 x) = x := by
  calc be32 (byteOf 0 x) (byteOf 1 x) (byteOf 2 x) (byteOf 3 x)
    _ = x.extractLsb' 24 8 ++ x.extractLsb' 16 8 ++ x.extractLsb' 8 8 ++ x.extractLsb' 0 8 := rfl
    _ = x.extractLsb' 0 32 := by
      rw [BitVec.extractLsb'_append_extractLsb'_eq_extractLsb' (by rfl),
        BitVec.extractLsb'_append_extractLsb'_eq_extractLsb' (by rfl),
        BitVec.extractLsb'_append_extractLsb'_eq_extractLsb' (by rfl)]
    _ = x := BitVec.extractLsb'_eq_self

/-- Settles O52: one arithmetic lemma per packing function, and the round trip of a word. -/
theorem bytePackingIsBigEndian : Obligations.BytePackingIsBigEndian := by
  unfold Obligations.BytePackingIsBigEndian
  exact ⟨toNat_be32, fun x k => toNat_byteOf k x, be32_byteOf, fun len k => toNat_be64Byte k len⟩

end Sys2Proof.Machine
end

section
/-! PROOFS. What one step does to the device, whichever agent takes it, and the invariant it keeps (10_state.md R43,
R45, R48, R52; 40_commands.md R155, R157, R160). -/

namespace Sys2Proof.Machine

/-! ## A step, seen from the device -/

/-- A step leaves the parameters, and the device stands, or the HOST's next event wrote it, or the ENGINE's micro-step
did. -/
theorem step_device {s t : State} (h : step s = .next t) :
    t.params = s.params ∧
    (t.dev = s.dev ∨ (∃ e, s.hostNext = some e ∧ HostWrites s.params s.dev e t.dev) ∨
      (s.engineNext = true ∧ s.dev.busy = true ∧ s.dev.micro s.params = .ok t.dev)) := by
  rcases step_cases h with ⟨rfl, -, -⟩ | ⟨s', e, rest, hc, hp, hd, hpar, he⟩ | ⟨s', d, hc, -, hpar, hb, hm, rfl⟩
  · exact ⟨rfl, .inl rfl⟩
  · have hw := hostEvent_writes he
    rw [State.withPending_params, State.withPending_dev, hd, hpar] at hw
    exact ⟨(hostEvent_params he).1.trans hpar, .inr (.inl ⟨e, hostNext_of_host hc hp, hw⟩)⟩
  · exact ⟨hpar, .inr (.inr ⟨engineNext_of_engine hc, hb, hm⟩)⟩

/-! ## The invariant -/

/-- Every message HASH accepts has a block, and the count fits NBLK (41_padding_framing.md R192). -/
theorem zero_lt_ofNat_nblocks {n : Nat} (hn : n < 2 ^ 61) : 0 < BitVec.ofNat 64 (nblocks n) := by
  rw [BitVec.lt_def, BitVec.toNat_ofNat, nblocks]
  show 0 < _
  omega

/-- An acceptance meets the invariant where it sets NBLK as its command must. -/
theorem Device.Inv.start {p : Params} {d : Device} (hi : d.Inv p) {m : Mode} {n : DWord} (hn : 0 < n)
    (hc : m = .compress → n = 1)
    (hh : m = .hash → d.msgLen.toNat < 2 ^ 61 ∧ d.msgLen.toNat ≤ p.msgMemBytes.toNat ∧
      n = BitVec.ofNat 64 (nblocks d.msgLen.toNat)) : (d.start m n).Inv p where
  memory := hi.memory
  idle := by simp
  expand := by simp
  counter := by simp
  running := by simp
  block := fun _ => hn
  compress := fun _ => hc
  hash := fun _ => hh
  last := by simp

/-- Loading IV touches no field of the invariant. -/
theorem Device.Inv.loadIV {p : Params} {d : Device} (hi : d.Inv p) : d.loadIV.Inv p := { hi with }

/-- Raising an error touches no field of the invariant. -/
theorem Device.Inv.raiseError {p : Params} {d : Device} (hi : d.Inv p) (c : ErrCode) : (d.raiseError c).Inv p :=
  { hi with }

/-- After an acknowledgement DONE = 0, so nothing is said of the last block. -/
theorem Device.Inv.clearFlags {p : Params} {d : Device} (hi : d.Inv p) : d.clearFlags.Inv p :=
  { hi with running := by simp, last := by simp }

/-- The invariant at the reset values needs only the memory's form. -/
theorem afterReset_inv {p : Params} {mem : Memory} (hm : Memory.wf p mem = true) : (Device.afterReset mem).Inv p where
  memory := hm
  idle := by simp [Device.afterReset]
  expand := by simp [Device.afterReset]
  counter := by simp [Device.afterReset]
  running := by simp [Device.afterReset]
  block := by simp [Device.afterReset]
  compress := by simp [Device.afterReset]
  hash := by simp [Device.afterReset]
  last := by simp [Device.afterReset]

/-- Every HOST event keeps the invariant. MSG_LEN is free to change only because the HOST writes it while BUSY = 0, where
the invariant says nothing of it. -/
theorem HostWrites.inv {p : Params} {d d' : Device} {e : HostEvent} (hw : HostWrites p d e d') (hi : d.Inv p) :
    d'.Inv p := by
  cases hw with
  | nothing => exact hi
  | reset => exact afterReset_inv hi.memory
  | ctrl v => exact { hi with }
  | msgLenLo v hb => exact { hi with hash := by simp [hb] }
  | msgLenHi v hb => exact { hi with hash := by simp [hb] }
  | h i v hb => exact { hi with }
  | m t v hb => exact { hi with }
  | byte a v hb ha => exact { hi with memory := memWrite_wf p d.msgmem a v ha hi.memory }
  | dropped hb he => exact hi.raiseError _
  | busyCommand v hb hv => exact hi.raiseError _
  | illegal v why hb hv => exact hi.raiseError _
  | init hb => exact hi.loadIV.clearFlags
  | compress hb => exact hi.start (by decide) (fun _ => rfl) (by simp)
  | lengthOverflow hb hn => exact hi.raiseError _
  | msgRange hb hn hm => exact hi.raiseError _
  | hash hb hn hm => exact hi.loadIV.start (zero_lt_ofNat_nblocks hn) (by simp) (fun _ => ⟨hn, hm, rfl⟩)
  | clear hb => exact hi.clearFlags

/-- The FOLD of a last block is on the block before NBLK: a COMPRESS has one block, and a HASH no block after this. -/
theorem Device.Inv.last_block {p : Params} {d : Device} (hi : d.Inv p) (hb : d.busy = true)
    (hl : ¬(d.mode = .hash ∧ d.blk + 1 < d.nblk)) : d.blk + 1 = d.nblk := by
  have hlt := hi.block hb
  cases hm : d.mode with
  | compress =>
    have := hi.compress hb hm
    bv_omega
  | hash =>
    have : ¬d.blk + 1 < d.nblk := fun h => hl ⟨hm, h⟩
    bv_omega

/-- Every micro-step of a running command keeps the invariant, one case per row of 43_compression.md R254. -/
theorem micro_inv {p : Params} {d e : Device} (hi : d.Inv p) (hb : d.busy = true) (h : d.micro p = .ok e) :
    e.Inv p := by
  rcases micro_cases h with ⟨-, -, rfl⟩ | ⟨hp, h16, h63, rfl⟩ | ⟨-, -, rfl⟩ | ⟨hp, -, rfl⟩ | ⟨-, -, rfl⟩ |
    ⟨hp, ⟨-, hlt⟩, rfl⟩ | ⟨hp, hl, rfl⟩
  · exact { hi with idle := by simp [hb], expand := by simp, counter := by simp }
  · have grows : 16 ≤ (d.cnt + 1).toNat := by bv_omega
    exact { hi with expand := fun _ => grows, counter := by simp [hp] }
  · exact { hi with idle := by simp [hb], expand := by simp, counter := by simp }
  · exact { hi with expand := by simp [hp], counter := by simp [hp] }
  · exact { hi with idle := by simp [hb], expand := by simp, counter := by simp }
  · exact { hi with
      idle := by simp [hb]
      expand := by simp
      counter := fun _ => hi.counter (.inr (.inl hp))
      block := fun _ => hlt
      last := by simp [hi.running hb] }
  · exact { hi with
      idle := by simp
      expand := by simp
      counter := fun _ => hi.counter (.inr (.inl hp))
      running := by simp
      block := by simp
      compress := by simp
      hash := by simp
      last := fun _ => hi.last_block hb hl }

/-- Settles O34: a step writes the device by the HOST's event or by the ENGINE's micro-step, and each keeps the
invariant. -/
theorem stepKeepsTheInvariant : Obligations.StepKeepsTheInvariant := by
  unfold Obligations.StepKeepsTheInvariant
  rintro s t ⟨hparams, hi⟩ h
  obtain ⟨hpar, hcases⟩ := step_device h
  refine ⟨hpar ▸ hparams, hpar ▸ ?_⟩
  rcases hcases with hd | ⟨e, -, hw⟩ | ⟨-, hb, hm⟩
  · exact hd ▸ hi
  · exact hw.inv hi
  · exact micro_inv hi hb hm

/-- Config's MSG_MEM_BYTES is one more than a number below 2^32 − 1, so it is not 0. -/
theorem config_params_wf : Config.params.wf = true := by
  have hlt := Config.msgMemBytesLessOne.isLt
  have hne : BitVec.ofNat 32 (Config.msgMemBytesLessOne.val + 1) ≠ 0 := by bv_omega
  simpa [Params.wf, Config.params] using hne

/-- Power-on lists no byte of message memory, which is canonical for all parameters. -/
theorem resetOf_inv {p : Params} (hp : p.wf = true) : MachineInv (State.resetOf p) := ⟨hp, afterReset_inv (nil_wf p)⟩

/-- Settles O35: the invariant at power-on, for lawful parameters and for Config's, which are lawful. -/
theorem resetMeetsTheInvariant : Obligations.ResetMeetsTheInvariant := by
  unfold Obligations.ResetMeetsTheInvariant
  exact ⟨fun _ => resetOf_inv, resetOf_inv config_params_wf⟩

end Sys2Proof.Machine
end

section
/-! PROOFS. Who writes what (10_state.md R30 to R49): each write of the HOST and each micro-step of the ENGINE, with the
elements it may change; every other element is taken over from the step that changes nothing. -/

namespace Sys2Proof.Machine

/-! ## What a write of a file or of half a length changes -/

/-- A register file changes only at the index written, where it then holds the value. -/
theorem eq_of_fileWrite_ne {n : Nat} {v : Vector Word n} {i j : Fin n} {x : Word}
    (h : (fileWrite v i.val x)[j] ≠ v[j]) : j = i ∧ (fileWrite v i.val x)[j] = x := by
  simp only [Fin.getElem_fin, fileWrite, Vector.getElem_setIfInBounds] at h ⊢
  by_cases hij : i.val = j.val
  · exact ⟨Fin.ext hij.symm, by simp [hij]⟩
  · simp [hij] at h

/-- LOAD changes no schedule word from 16 on (43_compression.md R240). -/
theorem lt_of_loadWords_ne {W : Vector Word 64} {B : Vector Word 16} {j : Nat}
    (h : fileRead (loadWords W B) j ≠ fileRead W j) : j < 16 := by
  by_contra hj
  exact h (by rw [fileRead_loadWords, if_neg hj])

/-- EXPAND changes only the schedule word it computes (42_schedule.md R226). -/
theorem eq_of_expandWord_ne {W : Vector Word 64} {c j : Nat}
    (h : fileRead (expandWord W c) j ≠ fileRead W j) : c = j := by
  by_contra hj
  exact h (by rw [expandWord, fileRead_fileWrite, if_neg fun hc => hj hc.1.symm])

@[simp] theorem lowWord_append (hi lo : Word) : lowWord (hi ++ lo) = lo := BitVec.extractLsb'_append_eq_right

@[simp] theorem highWord_append (hi lo : Word) : highWord (hi ++ lo) = hi := BitVec.extractLsb'_append_eq_left

/-! ## The HOST's writes -/

/-- Where nothing changes there is no writer to name. -/
theorem onlyWriters_self (s : State) : OnlyWriters s s where
  hashState := fun _ h => absurd rfl h
  workVars := fun h => absurd rfl h
  scheduleLow := fun _ _ h => absurd rfl h
  scheduleHigh := fun _ _ h => absurd rfl h
  blockBuffer := fun _ h => absurd rfl h
  lengthLow := fun h => absurd rfl h
  lengthHigh := fun h => absurd rfl h
  memory := fun h => absurd rfl h
  interruptEnable := fun h => absurd rfl h
  busyRises := fun h h' => by simp [h] at h'
  busyFalls := fun h h' => by simp [h] at h'
  doneRises := fun h h' => by simp [h] at h'
  doneFalls := fun h h' => by simp [h] at h'
  errorCleared := fun h h' => absurd h' h
  errorRaised := fun h => absurd rfl h
  mode := fun h => absurd rfl h
  phase := fun h => absurd rfl h
  counter := fun h => absurd rfl h
  block := fun h => absurd rfl h
  blockCount := fun h => absurd rfl h

/-- Only the device after the step matters to who wrote it. -/
theorem onlyWriters_of_withDev {s t : State} (h : OnlyWriters s (s.withDev t.dev)) : OnlyWriters s t := { h with }

theorem raiseError_onlyWriters {s : State} {c : ErrCode} (hc : RaisesError s c) :
    OnlyWriters s (s.withDev (s.dev.raiseError c)) :=
  { onlyWriters_self s with
    errorCleared := fun _ h => by
      have cleared : c = .none := h
      subst cleared
      exact hc.elim
    errorRaised := fun _ _ => hc }

/-- INIT and CLEAR: the device is acknowledged, and H is as it was or, after INIT, written. -/
theorem acknowledge_onlyWriters {s t : State} {h : Vector Word 8}
    (ht : t = s.withDev (Device.clearFlags { s.dev with H := h }))
    (ha : Accepts .init s t ∨ (Accepts .clear s t ∧ h = s.dev.H)) : OnlyWriters s t := by
  have cleared : Accepts .init s t ∨ Accepts .compress s t ∨ Accepts .hash s t ∨ Accepts .clear s t :=
    ha.imp_right fun hc => .inr (.inr hc.1)
  have loaded : h ≠ s.dev.H → Accepts .init s t := fun hne => ha.resolve_right fun hc => hne hc.2
  subst ht
  exact { onlyWriters_self s with
    hashState := fun i hne => .inr (.inl (loaded fun he => hne (by subst he; rfl)))
    doneRises := fun _ h' => by simp at h'
    doneFalls := fun _ _ => cleared
    errorCleared := fun _ _ => cleared
    errorRaised := fun _ h' => absurd rfl h' }

/-- An accepted COMPRESS or HASH: the ENGINE starts, and H is as it was or, after HASH, written. -/
theorem start_onlyWriters {s t : State} {h : Vector Word 8} {m : Mode} {n : DWord}
    (ht : t = s.withDev (Device.start m n { s.dev with H := h }))
    (ha : (Accepts .compress s t ∧ h = s.dev.H ∧ m = .compress ∧ n = 1) ∨
      (Accepts .hash s t ∧ m = .hash ∧ n = BitVec.ofNat 64 (nblocks s.dev.msgLen.toNat))) : OnlyWriters s t := by
  have started : Accepts .compress s t ∨ Accepts .hash s t := ha.imp And.left And.left
  have loaded : h ≠ s.dev.H → Accepts .hash s t := fun hne =>
    (ha.resolve_left fun ⟨_, he, _⟩ => hne he).1
  subst ht
  exact { onlyWriters_self s with
    hashState := fun i hne => .inr (.inr (.inl (loaded fun he => hne (by subst he; rfl))))
    busyRises := fun _ _ => started
    busyFalls := fun _ h' => by simp at h'
    doneRises := fun _ h' => by simp at h'
    doneFalls := fun _ _ => .inr (started.imp_right .inl)
    errorCleared := fun _ _ => .inr (started.imp_right .inl)
    errorRaised := fun _ h' => absurd rfl h'
    mode := fun _ => ha.imp (fun ⟨hc, _, hm, _⟩ => ⟨hc, hm⟩) fun ⟨hh, hm, _⟩ => ⟨hh, hm⟩
    phase := fun _ => .inl ⟨started, rfl⟩
    counter := fun _ => .inl ⟨started, rfl⟩
    block := fun _ => .inl ⟨started, rfl⟩
    blockCount := fun _ => ha.imp (fun ⟨hc, _, _, hn⟩ => ⟨hc, hn⟩) fun ⟨hh, _, hn⟩ => ⟨hh, hn⟩ }

/-- Every HOST event but reset writes only what it is a writer of. -/
theorem HostWrites.onlyWriters {s : State} {e : HostEvent} {d : Device} (hw : HostWrites s.params s.dev e d)
    (hn : s.hostNext = some e) (hr : e ≠ .reset) : OnlyWriters s (s.withDev d) := by
  cases hw with
  | nothing => exact onlyWriters_self s
  | reset => exact absurd rfl hr
  | ctrl v => exact { onlyWriters_self s with interruptEnable := fun _ => ⟨v, hn, rfl⟩ }
  | msgLenLo v hb =>
    exact { onlyWriters_self s with
      lengthLow := fun _ => ⟨hb, by simpa using hn⟩
      lengthHigh := fun h => absurd (highWord_append _ v) h }
  | msgLenHi v hb =>
    exact { onlyWriters_self s with
      lengthLow := fun h => absurd (lowWord_append v _) h
      lengthHigh := fun _ => ⟨hb, by simpa using hn⟩ }
  | h i v hb =>
    exact { onlyWriters_self s with
      hashState := fun j hne => by
        obtain ⟨rfl, hv⟩ := eq_of_fileWrite_ne hne
        exact .inl ⟨hb, hn.trans (by rw [State.withDev_dev, Device.setH_H, hv])⟩ }
  | m k v hb =>
    exact { onlyWriters_self s with
      blockBuffer := fun j hne => by
        obtain ⟨rfl, hv⟩ := eq_of_fileWrite_ne hne
        exact ⟨hb, hn.trans (by rw [State.withDev_dev, Device.setM_M, hv])⟩ }
  | byte a v hb ha => exact { onlyWriters_self s with memory := fun _ => ⟨hb, a, v, hn, rfl⟩ }
  | dropped _ hb he => exact raiseError_onlyWriters ⟨hb, e, he, hn⟩
  | busyCommand v hb hv => exact raiseError_onlyWriters ⟨hb, v, hv, hn⟩
  | illegal v why hb hv => exact raiseError_onlyWriters ⟨hb, v, why, hv, hn⟩
  | init hb => exact acknowledge_onlyWriters rfl (.inl ⟨hb, hn, hb⟩)
  | compress hb => exact start_onlyWriters rfl (.inl ⟨⟨hb, hn, rfl⟩, rfl, rfl, rfl⟩)
  | lengthOverflow hb hl => exact raiseError_onlyWriters ⟨hb, hn, hl⟩
  | msgRange hb hl hm => exact raiseError_onlyWriters ⟨hb, hn, hl, hm⟩
  | hash hb hl hm => exact start_onlyWriters rfl (.inr ⟨⟨hb, hn, rfl⟩, rfl, rfl⟩)
  | clear hb => exact acknowledge_onlyWriters rfl (.inr ⟨⟨hb, hn, hb⟩, rfl⟩)

/-! ## The ENGINE's writes -/

/-- LOAD writes W[0..15], PHASE and CNT (43_compression.md R240). -/
theorem load_onlyWriters {s : State} (he : EngineIn .load s) : OnlyWriters s (s.withDev (s.dev.load s.params)) :=
  { onlyWriters_self s with
    scheduleLow := fun _ _ _ => he
    scheduleHigh := fun j hj hne => absurd (lt_of_loadWords_ne hne) (by omega)
    phase := fun _ => .inr (.inl he)
    counter := fun _ => .inr (.inl he) }

/-- EXPAND before W[63] writes W[CNT] and CNT (42_schedule.md R226). -/
theorem expand_onlyWriters {s : State} (he : EngineIn .expand s) (h16 : 16 ≤ s.dev.cnt.toNat) :
    OnlyWriters s (s.withDev { s.dev with W := expandWord s.dev.W s.dev.cnt.toNat, cnt := s.dev.cnt + 1 }) :=
  { onlyWriters_self s with
    scheduleLow := fun j hj hne => absurd (eq_of_expandWord_ne hne) (by omega)
    scheduleHigh := fun j _ hne => ⟨he, eq_of_expandWord_ne hne⟩
    counter := fun _ => .inr (.inr (.inl he)) }

/-- The last EXPAND writes W[63], seeds wv and goes on to ROUND (42_schedule.md R226, 43_compression.md R242). -/
theorem lastExpand_onlyWriters {s : State} (he : EngineIn .expand s) (h63 : s.dev.cnt.toNat = 63) :
    OnlyWriters s (s.withDev
      { s.dev with wv := seedVars s.dev.H, W := expandWord s.dev.W 63, cnt := 0, phase := .round }) :=
  { onlyWriters_self s with
    workVars := fun _ => .inl ⟨he, h63⟩
    scheduleLow := fun j hj hne => absurd (eq_of_expandWord_ne hne) (by omega)
    scheduleHigh := fun j _ hne => ⟨he, h63.trans (eq_of_expandWord_ne hne)⟩
    phase := fun _ => .inr (.inr (.inl ⟨.inl he, h63⟩))
    counter := fun _ => .inr (.inr (.inl he)) }

/-- ROUND before round 63 writes wv and CNT (43_compression.md R248). -/
theorem round_onlyWriters {s : State} {v : WorkVars} {c : BitVec 6} (he : EngineIn .round s) :
    OnlyWriters s (s.withDev { s.dev with wv := v, cnt := c }) :=
  { onlyWriters_self s with
    workVars := fun _ => .inr he
    counter := fun _ => .inr (.inr (.inr he)) }

/-- Round 63 writes wv and goes on to FOLD (43_compression.md R248). -/
theorem lastRound_onlyWriters {s : State} {v : WorkVars} (he : EngineIn .round s) (h63 : s.dev.cnt.toNat = 63) :
    OnlyWriters s (s.withDev { s.dev with wv := v, cnt := 0, phase := .fold }) :=
  { onlyWriters_self s with
    workVars := fun _ => .inr he
    phase := fun _ => .inr (.inr (.inl ⟨.inr he, h63⟩))
    counter := fun _ => .inr (.inr (.inr he)) }

/-- FOLD before another block writes H, BLK and PHASE (43_compression.md R252). -/
theorem fold_onlyWriters {s : State} {h : Vector Word 8} (he : EngineIn .fold s) (hm : s.dev.mode = .hash)
    (hlt : s.dev.blk + 1 < s.dev.nblk) :
    OnlyWriters s (s.withDev { s.dev with H := h, blk := s.dev.blk + 1, phase := .load }) :=
  { onlyWriters_self s with
    hashState := fun _ _ => .inr (.inr (.inr he))
    phase := fun _ => .inr (.inr (.inr he))
    block := fun _ => .inr ⟨he, hm, hlt, rfl⟩ }

/-- The last FOLD writes H and PHASE, clears BUSY and raises DONE (43_compression.md R252). -/
theorem lastFold_onlyWriters {s : State} {h : Vector Word 8} (hl : LastFold s) :
    OnlyWriters s (s.withDev { s.dev with H := h, busy := false, done := true, phase := .idle }) :=
  { onlyWriters_self s with
    hashState := fun _ _ => .inr (.inr (.inr hl.1))
    busyRises := fun _ h' => by simp at h'
    busyFalls := fun _ _ => hl
    doneRises := fun _ _ => ⟨hl, rfl⟩
    doneFalls := fun _ h' => by simp at h'
    errorCleared := fun hne h' => absurd h' hne
    mode := fun hne => absurd rfl hne
    phase := fun _ => .inr (.inr (.inr hl.1))
    counter := fun hne => absurd rfl hne
    block := fun hne => absurd rfl hne
    blockCount := fun hne => absurd rfl hne }

/-- Every micro-step writes only what it is a writer of, one case per row of 43_compression.md R254. -/
theorem micro_onlyWriters {s : State} {d : Device} (hn : s.engineNext = true) (hb : s.dev.busy = true)
    (hm : s.dev.micro s.params = .ok d) : OnlyWriters s (s.withDev d) := by
  have engineIn : ∀ {ph : Phase}, s.dev.phase = ph → EngineIn ph s := fun hp => ⟨hn, hb, hp⟩
  have cnt63 : s.dev.cnt = 63 → s.dev.cnt.toNat = 63 := fun hc => by rw [hc]; rfl
  rcases micro_cases hm with ⟨hp, -, rfl⟩ | ⟨hp, h16, -, rfl⟩ | ⟨hp, hc, rfl⟩ | ⟨hp, -, rfl⟩ | ⟨hp, hc, rfl⟩ |
    ⟨hp, ⟨hmode, hlt⟩, rfl⟩ | ⟨hp, hl, rfl⟩
  · exact load_onlyWriters (engineIn hp)
  · exact expand_onlyWriters (engineIn hp) h16
  · exact lastExpand_onlyWriters (engineIn hp) (cnt63 hc)
  · exact round_onlyWriters (engineIn hp)
  · exact lastRound_onlyWriters (engineIn hp) (cnt63 hc)
  · exact fold_onlyWriters (engineIn hp) hmode hlt
  · exact lastFold_onlyWriters ⟨engineIn hp, hl⟩

/-! ## The step -/

/-- Settles O41: a step that is not reset changes nothing, or is a HOST event or a micro-step, each of which writes only
what it is a writer of. -/
theorem eachRegisterHasItsOnlyWriters : Obligations.EachRegisterHasItsOnlyWriters := by
  unfold Obligations.EachRegisterHasItsOnlyWriters
  intro s t h hr
  refine onlyWriters_of_withDev ?_
  rcases (step_device h).2 with hd | ⟨e, hn, hw⟩ | ⟨hn, hb, hm⟩
  · exact hd ▸ onlyWriters_self s
  · refine hw.onlyWriters hn fun he => ?_
    simp [State.resetNext, hn, he] at hr
  · exact micro_onlyWriters hn hb hm

/-- An ENGINE step by name is one by the choice of the agent. -/
theorem engineNext_iff (s : State) : s.engineNext = true ↔ ∃ s', chooseAgent s = some (.engine, s') := by
  refine ⟨fun h => ?_, fun ⟨_, hc⟩ => engineNext_of_engine hc⟩
  unfold State.engineNext at h
  split at h
  · exact ⟨_, ‹_›⟩
  all_goals simp at h

/-- No HOST event raises DONE (10_state.md R40). -/
theorem HostWrites.done_stays {p : Params} {d d' : Device} {e : HostEvent} (hw : HostWrites p d e d')
    (hd : d.done = false) : d'.done = false := by
  cases hw <;> simp [hd]

/-- Settles O38: no HOST event raises DONE, and of the ENGINE's micro-steps only the last FOLD writes it so. -/
theorem doneRisesOnlyAtTheLastFold : Obligations.DoneRisesOnlyAtTheLastFold := by
  unfold Obligations.DoneRisesOnlyAtTheLastFold
  intro s t h hs ht
  rcases (step_device h).2 with hd | ⟨e, -, hw⟩ | ⟨hn, hb, hm⟩
  · simp [hd, hs] at ht
  · simp [hw.done_stays hs] at ht
  · obtain ⟨⟨⟨-, -, hp⟩, hl⟩, hidle⟩ := (micro_onlyWriters hn hb hm).doneRises hs ht
    exact ⟨(engineNext_iff s).1 hn, hb, hp, hl, hidle⟩

end Sys2Proof.Machine
end

section
/-! PROOFS. The register space (10_state.md R30 to R50, R53, R57): which offsets are mapped, what each register reads as,
and what a write of each does. -/

namespace Sys2Proof.Machine

/-! ## Registers and their offsets -/

/-- The register map finds every register at its offset (10_state.md R57). -/
@[simp] theorem ofOffset_offset (r : Reg) : Reg.ofOffset r.offset = some r := by
  cases r with
  | h i => fin_cases i <;> rfl
  | wv i => fin_cases i <;> rfl
  | m t => fin_cases t <;> rfl
  | w j => fin_cases j <;> rfl
  | _ => rfl

/-- A read at a register's offset is the register's value. -/
theorem readOffset_offset (p : Params) (d : Device) (r : Reg) : d.readOffset p r.offset = d.regValue p r := by
  simp [Device.readOffset]

/-- A read transaction at a register's offset returns the register's value. -/
theorem perform_rd_offset (r : Reg) (s : State) :
    perform (.rd r.offset) s = .next (s.reply (.word (s.dev.regValue s.params r))) := by
  rw [perform, transRd, readOffset_offset]

/-- A write at the offset of a register other than CMD follows that register's rule. -/
theorem perform_wr_offset {r : Reg} (hr : r ≠ .cmd) (v : Word) (s : State) :
    perform (.wr r.offset v) s = .next (s.withDev (s.dev.writeReg r v)) := by
  cases r with
  | cmd => exact absurd rfl hr
  | _ => simp [perform, transWr]

/-- The word indices where no register stands (10_state.md R50). -/
theorem ofIndex_eq_none_iff (k : Nat) :
    Reg.ofIndex k = none ↔ (11 ≤ k ∧ k < 16) ∨ (48 ≤ k ∧ k < 64) ∨ 128 ≤ k := by
  have interface : interfaceRegs[k]? = none ↔ 11 ≤ k := List.getElem?_eq_none_iff
  unfold Reg.ofIndex
  split_ifs <;> simp only [interface, true_iff, false_iff] <;> omega

/-- An offset where no register stands reads 0. -/
theorem readOffset_of_unmapped {off : Nat} (h : Reg.ofOffset off = none) (p : Params) (d : Device) :
    d.readOffset p off = 0 := by
  simp [Device.readOffset, h]

/-- An offset where no register stands ignores a write. -/
theorem transWr_of_unmapped {off : Nat} (h : Reg.ofOffset off = none) (v : Word) (s : State) :
    transWr off v s = .next s := by
  simp [transWr, h]

/-- Settles O4: the ranges are the word indices without a register, and there reads give 0 and writes are ignored. -/
theorem unmappedOffsetsReadZeroAndIgnoreWrites : Obligations.UnmappedOffsetsReadZeroAndIgnoreWrites := by
  unfold Obligations.UnmappedOffsetsReadZeroAndIgnoreWrites
  intro off h4 hlt
  have unmapped : Reg.ofOffset off = none ↔
      (0x02C ≤ off ∧ off ≤ 0x03C) ∨ (0x0C0 ≤ off ∧ off ≤ 0x0FC) ∨ (0x200 ≤ off ∧ off ≤ 0xFFC) := by
    rw [Reg.ofOffset, if_pos h4, ofIndex_eq_none_iff]
    omega
  exact ⟨unmapped, fun h s v => have hn := unmapped.2 h
    ⟨readOffset_of_unmapped hn s.params s.dev, transWr_of_unmapped hn v s⟩⟩

/-! ## Reads -/

/-- The two halves of a 64-bit register join to the whole. -/
theorem highWord_append_lowWord (x : DWord) : highWord x ++ lowWord x = x := by
  rw [highWord, lowWord, BitVec.extractLsb'_append_extractLsb'_eq_extractLsb' (by rfl)]
  exact BitVec.extractLsb'_eq_self

theorem ctrlWord_eq_ite (d : Device) : d.ctrlWord = if d.ie then 1 else 0 := by
  unfold Device.ctrlWord
  cases d.ie <;> rfl

/-- Settles O16: each offset of the map is that of its register, and reads the register's value. -/
theorem registerMapReadsEveryRegister : Obligations.RegisterMapReadsEveryRegister := by
  unfold Obligations.RegisterMapReadsEveryRegister
  intro p d
  have reads := readOffset_offset p d
  refine ⟨reads .id, (reads .ctrl).trans (ctrlWord_eq_ite d), reads .cmd, reads .status, ?_, reads .memSize, ?_, ?_,
    fun i => (reads (.h i)).trans (fileRead_lt d.H i.val i.isLt), ?_,
    fun t => (reads (.m t)).trans (fileRead_lt d.M t.val t.isLt),
    fun j => (reads (.w j)).trans (fileRead_lt d.W j.val j.isLt)⟩
  · exact (congrArg₂ _ (reads .msgLenHi) (reads .msgLenLo)).trans (highWord_append_lowWord d.msgLen)
  · exact (congrArg₂ _ (reads .blkHi) (reads .blkLo)).trans (highWord_append_lowWord d.blk)
  · exact (congrArg₂ _ (reads .nblkHi) (reads .nblkLo)).trans (highWord_append_lowWord d.nblk)
  · rfl

/-- Settles O39: a step leaves the parameters, and MEM_SIZE and ID read from nothing else. -/
theorem parametersNeverChange : Obligations.ParametersNeverChange := by
  unfold Obligations.ParametersNeverChange
  intro s t h
  have hpar := (step_device h).1
  exact ⟨hpar, (readOffset_offset t.params t.dev .memSize).trans (congrArg Params.msgMemBytes hpar),
    readOffset_offset t.params t.dev .id⟩

/-! ## Writes -/

/-- The interrupt enable as CTRL reads it back: the bit written, in place (10_state.md R36). -/
theorem setCtrl_ctrlWord (v : Word) (d : Device) : (d.setCtrl v).ctrlWord = v &&& 1 := by
  rw [ctrlWord_eq_ite, Device.setCtrl_ie]
  calc (if v.getLsbD 0 then 1 else 0)
    _ = (BitVec.ofBool (v.getLsbD 0)).setWidth 32 := by cases v.getLsbD 0 <;> rfl
    _ = v &&& 1 := BitVec.and_one_eq_setWidth_ofBool_getLsbD.symm

/-- Settles O21: CTRL's rule has no guard. -/
theorem controlWriteSetsTheInterruptEnable : Obligations.ControlWriteSetsTheInterruptEnable := by
  unfold Obligations.ControlWriteSetsTheInterruptEnable
  refine ⟨fun s v => ⟨s.withDev (s.dev.setCtrl v), perform_wr_offset (r := .ctrl) (by decide) v s, rfl, ?_⟩,
    fun p mem => (readOffset_offset p (Device.afterReset mem) .ctrl).trans (ctrlWord_eq_ite _)⟩
  exact (readOffset_offset s.params (s.dev.setCtrl v) .ctrl).trans (setCtrl_ctrlWord v s.dev)

/-- The write of a guarded register while busy (10_state.md R53). -/
theorem perform_wr_busy {r : Reg} {v : Word} {w : Device → Device} {s : State} (hr : r ≠ .cmd)
    (hw : s.dev.writeReg r v = s.dev.guarded w) (hb : s.dev.busy = true) :
    perform (.wr r.offset v) s = .next (s.withDev (s.dev.raiseError .writeWhileBusy)) := by
  rw [perform_wr_offset hr, hw, Device.guarded_busy w hb]

/-- The write of a guarded register while idle (10_state.md R53). -/
theorem perform_wr_idle {r : Reg} {v : Word} {w : Device → Device} {s : State} (hr : r ≠ .cmd)
    (hw : s.dev.writeReg r v = s.dev.guarded w) (hb : s.dev.busy = false) :
    perform (.wr r.offset v) s = .next (s.withDev (w s.dev)) := by
  rw [perform_wr_offset hr, hw, Device.guarded_idle w hb]

/-- A memory write within the host contract decodes to its transaction (30_encoding.md R120). -/
theorem decode_encode_mwb {p : Params} {a : Nat} (ha : a < p.msgMemBytes.toNat) (v : Byte) :
    (Transaction.mwb a v).encode.decode p = .ok (.mwb a v) := by
  have byte : ¬255 < (v.setWidth 32).toNat := by
    rw [BitVec.toNat_setWidth]
    omega
  have keeps : (Transaction.mwb a v).encode.violation p = none := by
    simp only [Transaction.encode, BusAccess.violation, ne_eq, not_true, if_false, Nat.not_le.2 ha, byte]
  have back : (Transaction.mwb a v).encode.transaction = .mwb a v := by
    simp [BusAccess.transaction, Transaction.encode]
  simp only [BusAccess.decode, keeps, back]

/-- Settles O22: each of these places is written under the guard, which is shut while BUSY = 1. -/
theorem guardedWritesWhileBusyAreDropped : Obligations.GuardedWritesWhileBusyAreDropped := by
  unfold Obligations.GuardedWritesWhileBusyAreDropped
  intro s hb
  refine ⟨fun v => perform_wr_busy (r := .msgLenLo) (by decide) rfl hb,
    fun v => perform_wr_busy (r := .msgLenHi) (by decide) rfl hb,
    fun i v => perform_wr_busy (r := .h i) (by simp) rfl hb,
    fun t v => perform_wr_busy (r := .m t) (by simp) rfl hb, fun a v ha => ?_⟩
  calc busStep (Transaction.mwb a v).encode s
    _ = perform (.mwb a v) s := by rw [busStep, decode_encode_mwb ha]
    _ = .next (s.withDev (s.dev.raiseError .writeWhileBusy)) := by
      rw [perform, transMwb, Device.guarded_busy _ hb]

/-- Settles O23: the same guard, open while BUSY = 0. -/
theorem guardedWritesWhenIdleStore : Obligations.GuardedWritesWhenIdleStore := by
  unfold Obligations.GuardedWritesWhenIdleStore
  intro s hb
  refine ⟨fun v => perform_wr_idle (r := .msgLenLo) (by decide) rfl hb,
    fun v => perform_wr_idle (r := .msgLenHi) (by decide) rfl hb, fun i v => ?_, fun t v => ?_⟩
  · rw [← fileWrite_eq_set s.dev.H i.val v i.isLt]
    exact perform_wr_idle (r := .h i) (by simp) rfl hb
  · rw [← fileWrite_eq_set s.dev.M t.val v t.isLt]
    exact perform_wr_idle (r := .m t) (by simp) rfl hb

/-- The rule of a read-only register ignores the write, guard or no guard. -/
theorem writeReg_of_readOnly {r : Reg} (hr : r.readOnly = true) (v : Word) (d : Device) : d.writeReg r v = d := by
  cases r with
  | ctrl | cmd | msgLenLo | msgLenHi | h | m => simp [Reg.readOnly] at hr
  | _ => rfl

/-- Settles O24: no read-only register is CMD, and the rule of each leaves the device. -/
theorem readOnlyRegistersIgnoreWrites : Obligations.ReadOnlyRegistersIgnoreWrites := by
  unfold Obligations.ReadOnlyRegistersIgnoreWrites
  intro s r v hr
  have notCmd : r ≠ .cmd := by
    rintro rfl
    simp [Reg.readOnly] at hr
  rw [perform_wr_offset notCmd, writeReg_of_readOnly hr, State.withDev_dev_self]

/-! ## The STATUS word -/

theorem ofBool_eq_ite (b : Bool) : BitVec.ofBool b = if b then 1 else 0 := by cases b <;> rfl

/-- STATUS as a number: each field at its place value (10_state.md R38). -/
theorem statusWord_toNat (d : Device) : d.statusWord.toNat =
    d.cnt.toNat * 2 ^ 16 + d.irq.toNat * 2 ^ 12 + d.mode.bit.toNat * 2 ^ 11 + d.phase.bits.toNat * 2 ^ 8 +
      d.err.bits.toNat * 2 ^ 4 + d.done.toNat * 2 + d.busy.toNat := by
  simp only [Device.statusWord, toNat_append_eq_mul_add, BitVec.toNat_ofBool, BitVec.toNat_ofNat]
  omega

/-- The bits of STATUS in a field hold what the number's digits there are. -/
theorem statusWord_field {d : Device} {start len : Nat} {x : BitVec len}
    (h : d.statusWord.toNat / 2 ^ start % 2 ^ len = x.toNat) : d.statusWord.extractLsb' start len = x := by
  apply BitVec.eq_of_toNat_eq
  rw [toNat_extractLsb'_eq_div_mod, h]

/-- A one-bit field of STATUS is its flag. -/
theorem statusWord_flag {d : Device} {start : Nat} {b : Bool}
    (h : d.statusWord.toNat / 2 ^ start % 2 ^ 1 = b.toNat) :
    d.statusWord.extractLsb' start 1 = if b then 1 else 0 := by
  rw [statusWord_field (h.trans (BitVec.toNat_ofBool b).symm), ofBool_eq_ite]

/-- A field of STATUS without a meaning reads 0. -/
theorem statusWord_blank {d : Device} {start len : Nat} (h : d.statusWord.toNat / 2 ^ start % 2 ^ len = 0) :
    d.statusWord.extractLsb' start len = 0#len :=
  statusWord_field (h.trans BitVec.toNat_zero.symm)

theorem statusWord_afterReset (mem : Memory) : (Device.afterReset mem).statusWord = 0 := by
  apply BitVec.eq_of_toNat_eq
  rw [statusWord_toNat]
  simp [Device.afterReset, Device.irq, Mode.bit, Phase.bits, ErrCode.bits]

/-- Settles O17: a read and an ignored write by STATUS's rule in the register map, and each field by the word's place
values and the widths of the fields beside it. -/
theorem statusWordHasItsLayout : Obligations.StatusWordHasItsLayout := by
  unfold Obligations.StatusWordHasItsLayout
  refine ⟨fun s v => ⟨perform_rd_offset .status s, perform_wr_offset (r := .status) (by decide) v s⟩,
    statusWord_afterReset, fun d => ?_⟩
  have number := statusWord_toNat d
  have cnt := d.cnt.isLt
  have mode := d.mode.bit.isLt
  have phase := d.phase.bits.isLt
  have err := d.err.bits.isLt
  have irq := d.irq.toNat_le
  have done := d.done.toNat_le
  have busy := d.busy.toNat_le
  exact ⟨statusWord_flag (by omega), statusWord_flag (by omega), statusWord_blank (by omega),
    statusWord_field (x := d.err.bits) (by omega), statusWord_field (x := d.phase.bits) (by omega),
    statusWord_field (x := d.mode.bit) (by omega), statusWord_flag (by omega), statusWord_blank (by omega),
    statusWord_field (x := d.cnt) (by omega), statusWord_blank (by omega)⟩

/-! ## Power-on -/

/-- Settles O28: nothing is listed in message memory, so every address reads its power-on byte, and reset of reset values
is those values. -/
theorem powerOnStateIsReset : Obligations.PowerOnStateIsReset := by
  unfold Obligations.PowerOnStateIsReset
  exact fun p => ⟨rfl, statusWord_afterReset [], rfl, rfl, fun a => memRead_nil p a, rfl⟩

end Sys2Proof.Machine
end

section
/-! PROOFS. The message memory and the bus (20_memory.md R84 to R95): what a read and a write of a byte do, the canonical
form as a representation, and what stands while a command runs. -/

namespace Sys2Proof.Machine

/-! ## Bus accesses within and outside the host contract -/

/-- A bus access that keeps the host contract does what its transaction does. -/
theorem busStep_of_keeps {b : BusAccess} {s : State} (h : b.violation s.params = none) :
    busStep b s = perform b.transaction s := by
  simp only [busStep, BusAccess.decode, h]

/-- A bus access that breaks the host contract is refused by the clause it breaks. -/
theorem busStep_of_breaks {b : BusAccess} {s : State} {why : BusViolation} (h : b.violation s.params = some why) :
    busStep b s = .refused (.hostContract why) := by
  simp only [busStep, BusAccess.decode, h]

/-- Settles O19: an aligned offset of the register space keeps the contract, and a read only adds to the results. -/
theorem registerReadsReturnTheValueAndChangeNothing : Obligations.RegisterReadsReturnTheValueAndChangeNothing := by
  unfold Obligations.RegisterReadsReturnTheValueAndChangeNothing
  intro s off h4 hlt
  have keeps : (Transaction.rd off).encode.violation s.params = none := by
    simp [Transaction.encode, BusAccess.violation, h4, hlt]
  exact busStep_of_keeps keeps

/-- An 8-bit access at or above MSG_MEM_BYTES is refused, whatever it asks for (20_memory.md R85, R86). -/
theorem busStep_memory_past_end {s : State} {a : Nat} (ha : s.params.msgMemBytes.toNat ≤ a) (op : BusOp) :
    busStep { space := .mem, width := 8, addr := a, op := op } s = .refused (.hostContract .memoryRange) :=
  busStep_of_breaks (by simp [BusAccess.violation, ha])

/-- Settles O20: below the end the read keeps the contract and only adds to the results; above it no access does. -/
theorem memoryReadsReturnTheByteAndChangeNothing : Obligations.MemoryReadsReturnTheByteAndChangeNothing := by
  unfold Obligations.MemoryReadsReturnTheByteAndChangeNothing
  refine fun s a => ⟨fun ha => ?_, fun ha => busStep_memory_past_end ha .read⟩
  have keeps : (Transaction.mrb a).encode.violation s.params = none := by
    simp [Transaction.encode, BusAccess.violation, Nat.not_le.2 ha]
  exact busStep_of_keeps keeps

/-! ## Writing a byte -/

/-- A memory write within the host contract is a guarded write of its byte (20_memory.md R85). -/
theorem busStep_encode_mwb {s : State} {a : Nat} (ha : a < s.params.msgMemBytes.toNat) (v : Byte) :
    busStep (Transaction.mwb a v).encode s = .next (s.withDev (s.dev.guarded (Device.setByte s.params a v))) := by
  simp only [busStep, decode_encode_mwb ha, perform, transMwb]

/-- Settles O25: the guard decides between the memory's own write, whose laws say what is read after it and that the form
is kept, and the error. -/
theorem memoryWriteStoresOneByte : Obligations.MemoryWriteStoresOneByte := by
  unfold Obligations.MemoryWriteStoresOneByte
  intro s a v hm
  refine ⟨fun ha hb => ⟨s.withDev (s.dev.setByte s.params a v), ?_, ?_, ?_, rfl⟩, fun ha hb => ?_,
    fun ha => busStep_memory_past_end ha _⟩
  · exact (busStep_encode_mwb ha v).trans (by rw [Device.guarded_idle _ hb])
  · exact fun b => memRead_memWrite s.params s.dev.msgmem a b v (Memory.rising_of_wf hm)
  · exact memWrite_wf s.params s.dev.msgmem a v ha hm
  · exact (busStep_encode_mwb ha v).trans (by rw [Device.guarded_busy _ hb]; rfl)

/-! ## The canonical form as a representation -/

/-- Cell x lies at a lower address than cell y. -/
def cellBelow (x y : Host.Cell) : Prop := x.1 < y.1

/-- A rising memory is a list sorted strictly by address. -/
theorem memRising_iff_pairwise (m : Memory) : memRising m = true ↔ m.Pairwise cellBelow := by
  induction m with
  | nil => simp [memRising]
  | cons c rest ih => rw [memRising_cons, List.pairwise_cons, ih]; rfl

/-- An address that does not read as power-on left it is listed, with the byte it reads. -/
theorem mem_of_memRead_ne {p : Params} {m : Memory} {a : Nat} (h : memRead p m a ≠ powerOnByte p a) :
    (a, memRead p m a) ∈ m := by
  induction m with
  | nil => exact absurd (memRead_nil p a) h
  | cons c rest ih =>
    simp only [memRead] at h ⊢
    split_ifs at h ⊢ with hac
    · simp [hac]
    · exact List.mem_cons_of_mem _ (ih h)

/-- In a rising memory a listed address reads as the byte listed with it. -/
theorem memRead_of_mem {p : Params} {m : Memory} {c : Host.Cell} (hm : memRising m = true) (hc : c ∈ m) :
    memRead p m c.1 = c.2 := by
  induction m with
  | nil => simp at hc
  | cons e rest ih =>
    obtain ⟨above, rises⟩ := (memRising_cons e rest).1 hm
    simp only [memRead]
    rcases List.mem_cons.1 hc with rfl | hc
    · exact if_pos rfl
    · rw [if_neg (above c hc).ne', ih rises hc]

/-- The cells of a canonical memory are what its reads show to differ from power-on. -/
theorem mem_iff_memRead {p : Params} {m : Memory} (hm : Memory.wf p m = true) (c : Host.Cell) :
    c ∈ m ↔ memRead p m c.1 = c.2 ∧ c.2 ≠ powerOnByte p c.1 := by
  have unlisted : ∀ x ∈ m, x.2 ≠ powerOnByte p x.1 := by
    simp only [Memory.wf, Bool.and_eq_true, List.all_eq_true, bne_iff_ne] at hm
    exact fun x hx => (hm.2 x hx).2
  refine ⟨fun hc => ⟨memRead_of_mem (Memory.rising_of_wf hm) hc, unlisted c hc⟩, ?_⟩
  rintro ⟨hr, hne⟩
  have listed := mem_of_memRead_ne (hr.symm ▸ hne : memRead p m c.1 ≠ powerOnByte p c.1)
  rwa [hr] at listed

/-- Rising memories with the same cells are equal, as lists sorted strictly. -/
theorem eq_of_mem_iff_of_rising {m m' : Memory} (hm : memRising m = true) (hm' : memRising m' = true)
    (h : ∀ c, c ∈ m ↔ c ∈ m') : m = m' := by
  have : Std.Asymm cellBelow := ⟨fun _ _ => Nat.lt_asymm⟩
  exact ((memRising_iff_pairwise m).1 hm).eq_of_mem_iff ((memRising_iff_pairwise m').1 hm') h

/-- Settles O26: the reads fix the cells of a canonical memory, and the cells fix it. -/
theorem memoriesThatReadAlikeAreEqual : Obligations.MemoriesThatReadAlikeAreEqual := by
  unfold Obligations.MemoriesThatReadAlikeAreEqual
  intro p m m' hm hm' alike
  refine eq_of_mem_iff_of_rising (Memory.rising_of_wf hm) (Memory.rising_of_wf hm') fun c => ?_
  rw [mem_iff_memRead hm, mem_iff_memRead hm', alike]

/-! ## What stands while a command runs -/

/-- While BUSY = 1 a HOST event other than reset writes at most ERR and CTRL.IE (20_memory.md R94). -/
theorem HostWrites.busy {p : Params} {d d' : Device} {e : HostEvent} (hw : HostWrites p d e d') (hb : d.busy = true)
    (he : e ≠ .reset) : d' = { d with err := d'.err, ie := d'.ie } := by
  cases hw with
  | nothing | ctrl | dropped | busyCommand => rfl
  | reset => exact absurd rfl he
  | msgLenLo _ idle | msgLenHi _ idle | h _ _ idle | m _ _ idle | byte _ _ idle | illegal _ _ idle | init idle
  | compress idle | lengthOverflow idle | msgRange idle | hash idle | clear idle => simp [hb] at idle

/-- Settles O37: a busy device is open to the writes of CTRL and to the two busy errors only. -/
theorem hostCannotDisturbARunningCommand : Obligations.HostCannotDisturbARunningCommand := by
  unfold Obligations.HostCannotDisturbARunningCommand
  exact fun s t e hb he h => (hostEvent_writes h).busy hb he

/-- What a running command reads and must not lose: M, MSG_LEN, message memory, MODE and NBLK (20_memory.md R95). -/
def Device.inputs (d : Device) : Vector Word 16 × DWord × Memory × Mode × DWord :=
  (d.M, d.msgLen, d.msgmem, d.mode, d.nblk)

/-- No micro-step writes an input of the command. -/
theorem micro_inputs {p : Params} {d e : Device} (h : d.micro p = .ok e) : e.inputs = d.inputs := by
  rcases micro_cases h with ⟨-, -, rfl⟩ | ⟨-, -, -, rfl⟩ | ⟨-, -, rfl⟩ | ⟨-, -, rfl⟩ | ⟨-, -, rfl⟩ | ⟨-, -, rfl⟩ |
    ⟨-, -, rfl⟩ <;> simp [Device.inputs]

/-- A step of a running command that is not reset leaves the command's inputs. -/
theorem step_inputs {s t : State} (h : step s = .next t) (hb : s.dev.busy = true) (hr : s.resetNext = false) :
    t.dev.inputs = s.dev.inputs := by
  rcases (step_device h).2 with hd | ⟨e, hn, hw⟩ | ⟨-, -, hm⟩
  · rw [hd]
  · have he : e ≠ .reset := by
      rintro rfl
      simp [State.resetNext, hn] at hr
    rw [hw.busy hb he]
    rfl
  · exact micro_inputs hm

/-- The ENGINE moves only while a command runs, and its step is not the reset input. -/
theorem busy_of_engine {s s' : State} (hc : chooseAgent s = some (.engine, s')) :
    s.dev.busy = true ∧ s.resetNext = false := by
  refine ⟨?_, by simp [State.resetNext, State.hostNext, hc]⟩
  rcases chooseAgent_cases s with ⟨hn, -, -⟩ | ⟨a, u, ha, -, -, -, -, -, busy⟩
  · simp [hn] at hc
  · rw [hc, Option.some.injEq, Prod.mk.injEq] at ha
    exact busy ha.1.symm

/-- The inputs stand along every run of a command, whoever moves (70_reset_and_hazards.md R342). -/
theorem CommandRun.inputs {k : Nat} {s t : State} (hr : CommandRun k s t) : t.dev.inputs = s.dev.inputs := by
  induction hr with
  | start s => rfl
  | engine _ hc h ih =>
    obtain ⟨hb, hnr⟩ := busy_of_engine hc
    exact (step_inputs h hb hnr).trans ih
  | host _ hb _ hnr h ih => exact (step_inputs h hb hnr).trans ih

/-- Settles O40: the five inputs are one tuple, which stands along the run. -/
theorem commandInputsAreImmutable : Obligations.CommandInputsAreImmutable := by
  unfold Obligations.CommandInputsAreImmutable
  intro k s t _ hr
  simpa only [Device.inputs, Prod.mk.injEq] using hr.inputs

end Sys2Proof.Machine
end

section
/-! PROOFS. Decoding and encoding (30_encoding.md R110 to R120, 10_state.md R57): command words, register offsets and
bus accesses, and what an illegal word does. -/

namespace Sys2Proof.Machine

/-! ## Command words -/

/-- The word of a command decodes to it (30_encoding.md R112). -/
@[simp] theorem decode_encode (i : Instr) : decode (encode i) = .ok i := by cases i <;> decide

/-- The decoder reads a command from its word and from no other. -/
theorem decode_eq_ok_iff (v : Word) (i : Instr) : decode v = .ok i ↔ v = encode i :=
  ⟨encode_of_decodeWord, by rintro rfl; exact decode_encode i⟩

/-- The command words are the numbers 0 to 4 (30_encoding.md R112). -/
theorem exists_encode_iff (v : Word) : (∃ i, v = encode i) ↔ v.toNat < 5 := by
  constructor
  · rintro ⟨i, rfl⟩
    cases i <;> decide
  · intro h
    have number : v = BitVec.ofNat 32 v.toNat := by simp
    rw [number]
    interval_cases v.toNat
    exacts [⟨.nop, rfl⟩, ⟨.init, rfl⟩, ⟨.compress, rfl⟩, ⟨.hash, rfl⟩, ⟨.clear, rfl⟩]

/-- A word is illegal exactly when it is the word of no command. -/
theorem exists_decode_eq_error_iff (v : Word) : (∃ why, decode v = .error why) ↔ ¬∃ i, v = encode i := by
  simp only [← decode_eq_ok_iff]
  cases decode v <;> simp

/-- The illegal words by their fields: RSV is the number's quotient by 16, OP its remainder (30_encoding.md R113). -/
theorem exists_decode_eq_error_iff_fields (v : Word) :
    (∃ why, decode v = .error why) ↔ rsvField v ≠ 0 ∨ 5 ≤ (opField v).toNat := by
  have reserved : rsvField v = 0 ↔ v.toNat / 16 = 0 := by
    rw [← BitVec.toNat_inj, rsvField_toNat, BitVec.ofNat_eq_ofNat, BitVec.toNat_zero]
  rw [exists_decode_eq_error_iff, exists_encode_iff, ne_eq, reserved, opField_toNat]
  omega

/-- Settles O1: the five words are those of the commands, and the decoder's checks reject the other four. -/
theorem commandWordsDecodeAsTheOpcodeMapSays : Obligations.CommandWordsDecodeAsTheOpcodeMapSays := by
  unfold Obligations.CommandWordsDecodeAsTheOpcodeMapSays
  exact ⟨decode_encode .nop, decode_encode .init, decode_encode .compress, decode_encode .hash, decode_encode .clear,
    by decide, by decide, by decide, by decide⟩

/-- A device with an error recorded has its interrupt output at CTRL.IE (60_exceptions.md R305). -/
theorem irq_raiseError {c : ErrCode} (hc : c ≠ .none) (d : Device) : (d.raiseError c).irq = d.ie := by
  simp [Device.irq, hc]

/-- Settles O3: the fields say which words are illegal, and the illegal command only raises one of two errors. -/
theorem illegalWordsRaiseAnErrorAndDoNothingElse : Obligations.IllegalWordsRaiseAnErrorAndDoNothingElse := by
  unfold Obligations.IllegalWordsRaiseAnErrorAndDoNothingElse
  refine ⟨exists_decode_eq_error_iff_fields, fun s v why hv => ⟨_, ?_, rfl, irq_raiseError ?_ s.dev⟩⟩
  · rw [writeCmd, hv]
    exact execIllegal_eq s
  · cases s.dev.busy <;> decide

/-! ## Register offsets and bus accesses -/

/-- The register map and its offsets are inverse to each other (10_state.md R57). -/
theorem ofOffset_eq_some_iff (off : Nat) (r : Reg) : Reg.ofOffset off = some r ↔ off = r.offset :=
  ⟨offset_of_ofOffset, by rintro rfl; exact ofOffset_offset r⟩

/-- A transaction that keeps the host contract is read back from its bus encoding (30_encoding.md R120). -/
theorem decode_encode_transaction {p : Params} {t : Transaction} (h : t.wf p = true) : t.encode.decode p = .ok t := by
  cases t with
  | mwb a v => exact decode_encode_mwb (of_decide_eq_true h) v
  | mrb a =>
    have inside : a < p.msgMemBytes.toNat := of_decide_eq_true h
    simp [Transaction.encode, BusAccess.decode, BusAccess.violation, BusAccess.transaction, Nat.not_le.2 inside]
  | rd off | wr off v =>
    obtain ⟨aligned, inside⟩ : off % 4 = 0 ∧ off < 0x1000 := by simpa [Transaction.wf, offsetWf] using h
    simp [Transaction.encode, BusAccess.decode, BusAccess.violation, BusAccess.transaction, aligned,
      Nat.not_le.2 inside]

/-- A bus access decodes to the transaction it encodes and to no other, within the host contract. -/
theorem decode_eq_ok_iff_encode (p : Params) (b : BusAccess) (t : Transaction) :
    b.decode p = .ok t ↔ t.wf p = true ∧ b = t.encode :=
  ⟨fun h => (encode_of_decode h).symm, by rintro ⟨h, rfl⟩; exact decode_encode_transaction h⟩

/-- Settles O2: one equivalence per decoder. -/
theorem decodeAndEncodeAgree : Obligations.DecodeAndEncodeAgree := by
  unfold Obligations.DecodeAndEncodeAgree
  exact ⟨decode_eq_ok_iff, ofOffset_eq_some_iff, decode_eq_ok_iff_encode⟩

end Sys2Proof.Machine
end

section
/-! PROOFS. The HOST's steps (30_encoding.md R110, R120 to R122): the command a step runs, and the pseudo-instructions
as runs of an idle machine. -/

namespace Sys2Proof.Machine

/-! ## The step of the HOST -/

/-- Where the HOST is to move, the step is its oldest pending event, made with that event gone. -/
theorem step_of_host {s s' : State} {e : HostEvent} {rest : List HostEvent} (hc : chooseAgent s = some (.host, s'))
    (hp : s'.pending = e :: rest) : step s = hostEvent e (s'.withPending rest) := by
  simp only [step, agentStep, hc, hostStep, hp]

/-- With the ENGINE idle and an event pending the HOST is to move (70_reset_and_hazards.md R345). -/
theorem chooseAgent_idle {s : State} {e : HostEvent} {rest : List HostEvent} (hb : s.dev.busy = false)
    (hp : s.pending = e :: rest) : chooseAgent s = some (.host, s) := by
  simp only [chooseAgent, hb, hp]

/-- The event of a transaction within the host contract is that transaction (30_encoding.md R120). -/
theorem hostEvent_transact {t : Transaction} {s : State} (h : t.wf s.params = true) :
    hostEvent (transact t) s = perform t s := by
  simp only [transact, hostEvent, busStep, decode_encode_transaction h]

/-- The offset of every register keeps the host contract (20_memory.md R87). -/
theorem offsetWf_offset (r : Reg) : offsetWf r.offset = true := by
  rw [offsetWf, Bool.and_eq_true, beq_iff_eq, decide_eq_true_eq]
  cases r with
  | h | wv | m | w =>
    simp only [Reg.offset]
    omega
  | _ => decide

/-- The event that writes the word v to CMD issues the command v (10_state.md R37). -/
theorem hostEvent_commandAccess (v : Word) (s : State) :
    hostEvent (.access (commandAccess v)) s = writeCmd v s := by
  calc hostEvent (.access (commandAccess v)) s
    _ = perform (.wr Reg.cmd.offset v) s := hostEvent_transact (t := .wr Reg.cmd.offset v) (offsetWf_offset .cmd)
    _ = writeCmd v s := by rw [perform, transWr, ofOffset_offset]

theorem writeCmd_of_ok {v : Word} {i : Instr} (h : decode v = .ok i) (s : State) : writeCmd v s = exec i s := by
  rw [writeCmd, h]

theorem writeCmd_of_error {v : Word} {why : IllegalWord} (h : decode v = .error why) (s : State) :
    writeCmd v s = execIllegal s := by
  rw [writeCmd, h]

/-- Settles O7: the step is the write of CMD, which the decoder sends to the command or to the illegal one. -/
theorem stepRunsTheDecodedCommand : Obligations.StepRunsTheDecodedCommand := by
  unfold Obligations.StepRunsTheDecodedCommand
  intro s s' v rest hc hp
  rw [step_of_host hc hp, hostEvent_commandAccess]
  exact ⟨fun _ h => writeCmd_of_ok h _, fun _ h => writeCmd_of_error h _⟩

/-- The HOST is to move at a placed command, which leaves the turns as they were before the placing (log 1). -/
theorem chooseAgent_placeCommand (s : State) (v : Word) :
    chooseAgent (s.placeCommand v) = some (.host, s.withPending (.access (commandAccess v) :: s.pending)) := by
  cases hb : s.dev.busy <;> simp [chooseAgent, State.placeCommand, State.withPending, hb]

/-- A command word is its own 32-bit table word. -/
theorem tableWord_toNat (v : Word) : tableWord 32 v.toNat = v := by
  rw [tableWord, Nat.mod_eq_of_lt v.isLt, BitVec.ofNat_toNat, BitVec.setWidth_eq]

/-- Settles O8: the placed word is the HOST's next event, and the state without that event is the state itself. -/
theorem placedCommandRunsNext : Obligations.PlacedCommandRunsNext := by
  unfold Obligations.PlacedCommandRunsNext
  intro s i
  calc step (s.withFetchWord 32 (encode i).toNat)
    _ = step (s.placeCommand (encode i)) := by rw [State.withFetchWord, tableWord_toNat]
    _ = writeCmd (encode i) s := by
      rw [step_of_host (chooseAgent_placeCommand s _) rfl, hostEvent_commandAccess]
      rfl
    _ = exec i s := writeCmd_of_ok (decode_encode i) s

/-- Bit 0 of STATUS is BUSY (10_state.md R38). -/
theorem statusWord_busy (d : Device) : d.statusWord.getLsbD 0 = d.busy := by
  rw [Device.statusWord, BitVec.getLsbD_append]
  simp

/-- Settles O47: the turn reads STATUS and looks at BUSY. -/
theorem waitPollsStatusUntilIdle : Obligations.WaitPollsStatusUntilIdle := by
  unfold Obligations.WaitPollsStatusUntilIdle
  intro s
  have reads : s.dev.readOffset s.params Reg.status.offset = s.dev.statusWord := readOffset_offset _ _ .status
  simp only [hostEvent, waitStep, reads, statusWord_busy]
  rfl

/-! ## Runs of transactions on an idle machine -/

/-- A run of an idle machine makes the pending transaction and goes on from there. -/
theorem core_run_transact {t : Transaction} {s u : State} {es : List HostEvent} (k : Nat) (hb : s.dev.busy = false)
    (hp : s.pending = transact t :: es) (ht : t.wf s.params = true) (h : perform t (s.withPending es) = .next u) :
    Sys2Proof.core.run (k + 1) s = Sys2Proof.core.run k u := by
  refine core_run_succ ?_
  rw [step_of_host (chooseAgent_idle hb hp) hp, hostEvent_transact (s := s.withPending es) ht, h]

/-- A run of an idle machine makes the pending write of a guarded register and goes on from there (10_state.md R53). -/
theorem core_run_guardedWrite {r : Reg} {v : Word} {w : Device → Device} {s : State} {es : List HostEvent} (k : Nat)
    (hb : s.dev.busy = false) (hp : s.pending = transact (.wr r.offset v) :: es) (hr : r ≠ .cmd)
    (hw : s.dev.writeReg r v = s.dev.guarded w) :
    Sys2Proof.core.run (k + 1) s = Sys2Proof.core.run k ((s.withPending es).withDev (w s.dev)) :=
  core_run_transact k hb hp (offsetWf_offset r) (perform_wr_idle hr hw hb)

/-- Both halves of MSG_LEN written are MSG_LEN written (10_state.md R46). -/
theorem setMsgLenHi_setMsgLenLo (n : DWord) (d : Device) :
    (d.setMsgLenLo (lowWord n)).setMsgLenHi (highWord n) = { d with msgLen := n } := by
  simp [Device.setMsgLenHi, highWord_append_lowWord, Device.setMsgLenLo]

/-- Settles O48: two guarded writes with the guard open. -/
theorem setLenWritesTheLength : Obligations.SetLenWritesTheLength := by
  unfold Obligations.SetLenWritesTheLength
  intro s n rest hb hp
  calc Sys2Proof.core.run 2 s
    _ = Sys2Proof.core.run 1 ((s.withPending (transact (.wr Reg.msgLenHi.offset (highWord n)) :: rest)).withDev
          (s.dev.setMsgLenLo (lowWord n))) :=
      core_run_guardedWrite (r := .msgLenLo) 1 hb hp (by decide) rfl
    _ = .next ((s.withPending rest).withDev ((s.dev.setMsgLenLo (lowWord n)).setMsgLenHi (highWord n))) :=
      core_run_guardedWrite (r := .msgLenHi) 0 hb rfl (by decide) rfl
    _ = .next ((s.withPending rest).withDev { s.dev with msgLen := n }) := by rw [setMsgLenHi_setMsgLenLo]

/-- The message memory with consecutive bytes written from the address a on. -/
def memWriteFrom (p : Params) (m : Memory) (a : Nat) : List Byte → Memory
  | [] => m
  | b :: bs => memWriteFrom p (memWrite p m a b) (a + 1) bs

/-- A read after a run of writes: the byte written there, or the byte as before. -/
theorem memRead_memWriteFrom (p : Params) {m : Memory} (hm : memRising m = true) (a b : Nat) (bs : List Byte) :
    memRead p (memWriteFrom p m a bs) b =
      if a ≤ b ∧ b < a + bs.length then bs.getD (b - a) 0 else memRead p m b := by
  induction bs generalizing m a with
  | nil =>
    have outside : ¬(a ≤ b ∧ b < a + ([] : List Byte).length) := by simp
    rw [memWriteFrom, if_neg outside]
  | cons x xs ih =>
    rw [memWriteFrom, ih (memRising_memWrite p m a x hm), memRead_memWrite p m a b x hm, List.length_cons]
    rcases Nat.lt_trichotomy b a with hlt | rfl | hgt
    · rw [if_neg (by omega), if_neg (by omega), if_neg (by omega)]
    · rw [if_neg (by omega), if_pos rfl, if_pos (by omega), Nat.sub_self, List.getD_cons_zero]
    · obtain ⟨j, rfl⟩ : ∃ j, b = a + 1 + j := ⟨b - (a + 1), by omega⟩
      have here : a + 1 + j - (a + 1) = j := by omega
      have next : a + 1 + j - a = j + 1 := by omega
      rw [here, next, List.getD_cons_succ, if_neg (by omega : ¬a + 1 + j = a)]
      exact if_congr (by omega) rfl rfl

/-- PUTMSG on an idle machine, within the message memory, writes its bytes one after the other (30_encoding.md R122). -/
theorem core_run_putMsg {s : State} {a : Nat} {bs : List Byte} {rest : List HostEvent} (hb : s.dev.busy = false)
    (ha : a + bs.length ≤ s.params.msgMemBytes.toNat) (hp : s.pending = putMsg a bs ++ rest) :
    Sys2Proof.core.run bs.length s =
      .next { s with
        dev := { s.dev with msgmem := memWriteFrom s.params s.dev.msgmem a bs }
        pending := rest } := by
  induction bs generalizing s a with
  | nil =>
    subst hp
    rfl
  | cons x xs ih =>
    rw [List.length_cons] at ha ⊢
    have inside : (Transaction.mwb a x).wf s.params = true := decide_eq_true (by omega)
    have write : perform (.mwb a x) (s.withPending (putMsg (a + 1) xs ++ rest)) =
        .next ((s.withPending (putMsg (a + 1) xs ++ rest)).withDev (s.dev.setByte s.params a x)) := by
      rw [perform, transMwb, State.withPending_dev, State.withPending_params, Device.guarded_idle _ hb]
    rw [core_run_transact xs.length hb hp inside write]
    exact ih hb (by simp; omega) rfl

/-- Settles O49: the run's memory is the bytes written in turn, whose reads are known. -/
theorem putMsgWritesTheMessage : Obligations.PutMsgWritesTheMessage := by
  unfold Obligations.PutMsgWritesTheMessage
  intro s a bs rest hm hb ha hp
  exact ⟨_, core_run_putMsg hb ha hp, rfl,
    fun b => memRead_memWriteFrom s.params (Memory.rising_of_wf hm) a b bs, rfl⟩

/-- Reads of registers, one after the other, on an idle machine: their values in that order, and nothing else
(20_memory.md R87). -/
theorem core_run_reads {s : State} {rs : List Reg} {rest : List HostEvent} (hb : s.dev.busy = false)
    (hp : s.pending = (rs.map fun r => transact (.rd r.offset)) ++ rest) :
    Sys2Proof.core.run rs.length s =
      .next { s with
        pending := rest
        results := s.results ++ rs.map fun r => Reply.word (s.dev.regValue s.params r) } := by
  induction rs generalizing s with
  | nil =>
    subst hp
    simp [core_run_zero]
  | cons r rs ih =>
    refine (core_run_transact rs.length hb hp (offsetWf_offset r) (perform_rd_offset r _)).trans ?_
    refine (ih ?_ rfl).trans ?_
    · exact hb
    simp [State.reply, State.withPending]

/-- A register file as a list is its reads in order. -/
theorem toList_eq_map_fileRead {n : Nat} (v : Vector Word n) :
    v.toList = (List.finRange n).map fun i => fileRead v i.val :=
  List.ext_getElem (by simp) (by simp [fileRead])

/-- Settles O50: GETH is the reads of H[0] to H[7]. -/
theorem getHReturnsTheEightWords : Obligations.GetHReturnsTheEightWords := by
  unfold Obligations.GetHReturnsTheEightWords
  intro s rest hb hp
  have reads : getH = ((List.finRange 8).map Reg.h).map fun r => transact (.rd r.offset) := List.map_map.symm
  have values : ((List.finRange 8).map Reg.h).map (fun r => Reply.word (s.dev.regValue s.params r)) =
      s.dev.H.toList.map Reply.word := by
    rw [toList_eq_map_fileRead, List.map_map, List.map_map]
    rfl
  rw [← values]
  exact core_run_reads hb (reads ▸ hp)

end Sys2Proof.Machine
end

section
/-! PROOFS. The five commands (40_commands.md R150 to R159): what each does while the ENGINE is idle, what every one of
them does while it runs, and what none of them touches. -/

namespace Sys2Proof.Machine

/-! ## The busy rule (40_commands.md R150) -/

/-- While BUSY = 1 a command other than NOP only raises 4. -/
theorem exec_of_busy {i : Instr} {s : State} (hi : i ≠ .nop) (hb : s.dev.busy = true) :
    exec i s = .next (s.withDev (s.dev.raiseError .busyCmd)) := by
  obtain ⟨d, hx, ⟨hnop, -⟩ | ⟨-, -, rfl⟩ | ⟨idle, -⟩⟩ := exec_cases i s
  · exact absurd hnop hi
  · exact hx
  · simp [hb] at idle

/-- Settles O9: NOP first, then the busy rule for commands and illegal words alike, then the decoder's answer. -/
theorem commandDispatchChecksInOrder : Obligations.CommandDispatchChecksInOrder := by
  unfold Obligations.CommandDispatchChecksInOrder
  refine fun s v => ⟨fun h => writeCmd_of_ok h s, fun hv hb => ?_, fun why h hb => ?_,
    fun i h _ => writeCmd_of_ok h s⟩
  · rcases writeCmd_cases v s with ⟨i, hd, hw⟩ | ⟨why, -, hw⟩ <;> rw [hw]
    · exact exec_of_busy (fun hi => hv (hi ▸ hd)) hb
    · rw [execIllegal_eq, if_pos hb, Device.raiseError]
  · rw [writeCmd_of_error h, execIllegal_eq, hb, Device.raiseError]
    rfl

/-! ## Each command while idle -/

/-- Settles O10: the encoding and the meaning by their definitions, and RSV alone makes a word illegal. -/
theorem nopHasNoEffect : Obligations.NopHasNoEffect := by
  unfold Obligations.NopHasNoEffect
  exact ⟨rfl, fun _ => rfl, fun v _ hr => (exists_decode_eq_error_iff_fields v).2 (.inl hr)⟩

theorem exec_init_idle {s : State} (hb : s.dev.busy = false) :
    exec .init s = .next (s.withDev s.dev.initialise) := by
  rw [exec, execInit, Device.whenIdle_idle _ hb]

/-- Settles O11: the second INIT finds IV and the cleared flags in place. -/
theorem initLoadsTheInitialHash : Obligations.InitLoadsTheInitialHash := by
  unfold Obligations.InitLoadsTheInitialHash
  refine ⟨rfl, fun s hb => exec_init_idle hb, fun s hb => exec_of_busy (by decide) hb, fun s t hb h => ?_⟩
  obtain rfl : s.withDev s.dev.initialise = t := by simpa [exec_init_idle hb] using h
  exact exec_init_idle hb

theorem exec_compress_idle {s : State} (hb : s.dev.busy = false) :
    exec .compress s = .next (s.withDev (s.dev.start .compress 1)) := by
  rw [exec, execCompress, Device.whenIdle_idle _ hb]

/-- Settles O12: COMPRESS has no check but the busy rule. -/
theorem compressIsAcceptedWhenIdle : Obligations.CompressIsAcceptedWhenIdle := by
  unfold Obligations.CompressIsAcceptedWhenIdle
  exact ⟨rfl, fun s hb => exec_compress_idle hb, fun s hb => exec_of_busy (by decide) hb⟩

theorem exec_hash_idle {s : State} (hb : s.dev.busy = false) :
    exec .hash s = .next (s.withDev (s.dev.acceptHash s.params)) := by
  rw [exec, execHash, Device.whenIdle_idle _ hb]

/-- HASH's first check: a length of 2^61 or more (40_commands.md R157). -/
theorem acceptHash_of_overflow {d : Device} (hn : 2 ^ 61 ≤ d.msgLen.toNat) (p : Params) :
    d.acceptHash p = d.raiseError .lengthOverflow := if_pos hn

/-- HASH's second check: a message longer than the message memory (40_commands.md R157). -/
theorem acceptHash_of_range {p : Params} {d : Device} (hn : d.msgLen.toNat < 2 ^ 61)
    (hm : p.msgMemBytes.toNat < d.msgLen.toNat) : d.acceptHash p = d.raiseError .msgRange := by
  rw [Device.acceptHash, if_neg (Nat.not_le.2 hn), if_pos hm]

/-- HASH past its checks (40_commands.md R157). -/
theorem acceptHash_of_fits {p : Params} {d : Device} (hn : d.msgLen.toNat < 2 ^ 61)
    (hm : d.msgLen.toNat ≤ p.msgMemBytes.toNat) :
    d.acceptHash p = d.loadIV.start .hash (BitVec.ofNat 64 (nblocks d.msgLen.toNat)) := by
  rw [Device.acceptHash, if_neg (Nat.not_le.2 hn), if_neg (Nat.not_lt.2 hm)]

/-- Settles O13: one lemma for each of HASH's two checks and one for its acceptance. -/
theorem hashChecksTheLengthThenStarts : Obligations.HashChecksTheLengthThenStarts := by
  unfold Obligations.HashChecksTheLengthThenStarts
  refine ⟨rfl, fun s hb hn => ?_, fun s hb hn hm => ?_, fun s hb hn hm => ?_, fun s hb => exec_of_busy (by decide) hb⟩
  · rw [exec_hash_idle hb, acceptHash_of_overflow hn, Device.raiseError]
  · rw [exec_hash_idle hb, acceptHash_of_range hn hm, Device.raiseError]
  · rw [exec_hash_idle hb, acceptHash_of_fits hn hm]
    rfl

theorem exec_clear_idle {s : State} (hb : s.dev.busy = false) :
    exec .clear s = .next (s.withDev s.dev.clearFlags) := by
  rw [exec, execClear, Device.whenIdle_idle _ hb]

/-- With DONE and ERR cleared the interrupt output is off (60_exceptions.md R305). -/
theorem irq_clearFlags (d : Device) : d.clearFlags.irq = false := by
  simp [Device.irq]

/-- Settles O14: CLEAR, idle, is the acknowledgement. -/
theorem clearAcknowledges : Obligations.ClearAcknowledges := by
  unfold Obligations.ClearAcknowledges
  exact ⟨rfl, fun s hb => ⟨_, exec_clear_idle hb, rfl, irq_clearFlags s.dev⟩,
    fun s hb => exec_of_busy (by decide) hb⟩

/-! ## What no command touches -/

/-- The elements of the device that no command writes. -/
def Device.untouched (d : Device) : WorkVars × Vector Word 64 × Vector Word 16 × DWord × Bool × Memory :=
  (d.wv, d.W, d.M, d.msgLen, d.ie, d.msgmem)

/-- The elements of the device that say how far a command has come. -/
def Device.sequencer (d : Device) : Bool × Mode × Phase × BitVec 6 × DWord × DWord :=
  (d.busy, d.mode, d.phase, d.cnt, d.blk, d.nblk)

/-- The frame of the commands, in the device. -/
theorem exec_frame (i : Instr) (s : State) : ∃ d, exec i s = .next (s.withDev d) ∧
    d.untouched = s.dev.untouched ∧
    (i = .nop ∨ i = .compress ∨ i = .clear → d.H = s.dev.H) ∧
    (i = .nop ∨ i = .init ∨ i = .clear → d.sequencer = s.dev.sequencer) := by
  obtain ⟨d, hx, hc⟩ := exec_cases i s
  refine ⟨d, hx, ?_⟩
  rcases hc with ⟨-, rfl⟩ | ⟨-, -, rfl⟩ | ⟨-, ⟨rfl, rfl⟩ | ⟨rfl, rfl⟩ | ⟨rfl, rfl⟩ | ⟨rfl, rfl⟩⟩
  · exact ⟨rfl, fun _ => rfl, fun _ => rfl⟩
  · exact ⟨rfl, fun _ => rfl, fun _ => rfl⟩
  · exact ⟨rfl, by simp, fun _ => rfl⟩
  · exact ⟨rfl, fun _ => rfl, by simp⟩
  · refine ⟨?_, by simp, by simp⟩
    rcases acceptHash_cases s.params s.dev with ⟨-, h⟩ | ⟨-, -, h⟩ | ⟨-, -, h⟩ <;> rw [h] <;> rfl
  · exact ⟨rfl, fun _ => rfl, fun _ => rfl⟩

/-- Settles O15: every command answers the state with a new device, and that device keeps the frame. -/
theorem commandsKeepTheirFrame : Obligations.CommandsKeepTheirFrame := by
  unfold Obligations.CommandsKeepTheirFrame
  intro i s
  obtain ⟨d, hx, hu, hH, hq⟩ := exec_frame i s
  simp only [Device.untouched, Device.sequencer, Prod.mk.injEq] at hu hq
  obtain ⟨hwv, hW, hM, hlen, hie, hmem⟩ := hu
  exact ⟨s.withDev d, hx, rfl, rfl, rfl, rfl, rfl, hwv, hW, hM, hlen, hie, fun a => congrArg (memRead s.params · a) hmem,
    hH, hq⟩

end Sys2Proof.Machine
end

section
/-! PROOFS. A command from its acceptance to its end: each ENGINE step leaves one step fewer, no HOST event but reset
makes a difference, and the last step ends the command (40_commands.md R160, 43_compression.md R254, R256). -/

namespace Sys2Proof.Machine

/-! ## The steps of a run, seen from the device -/

/-- A step in which the ENGINE moves is its micro-step. -/
theorem step_device_of_engine {s v t : State} (hc : chooseAgent s = some (.engine, v)) (h : step s = .next t) :
    t.params = s.params ∧ s.dev.busy = true ∧ s.dev.micro s.params = .ok t.dev := by
  rcases step_cases h with ⟨-, idle, -⟩ | ⟨s', e, rest, hh, -⟩ | ⟨s', d, -, -, hpar, hb, hm, rfl⟩
  · simp [(busy_of_engine hc).1] at idle
  · simp [hc] at hh
  · exact ⟨hpar, hb, hm⟩

/-- A step in which the HOST moves, while a command runs and not by reset, writes at most ERR and CTRL.IE. -/
theorem step_device_of_host {s v t : State} (hc : chooseAgent s = some (.host, v)) (hb : s.dev.busy = true)
    (hr : s.resetNext = false) (h : step s = .next t) :
    t.params = s.params ∧ t.dev = { s.dev with err := t.dev.err, ie := t.dev.ie } := by
  obtain ⟨hpar, hd | ⟨e, hn, hw⟩ | ⟨he, -, -⟩⟩ := step_device h
  · exact ⟨hpar, by rw [hd]⟩
  · refine ⟨hpar, hw.busy hb ?_⟩
    rintro rfl
    simp [State.resetNext, hn] at hr
  · simp [State.engineNext, hc] at he

/-- ERR and CTRL.IE are not in the invariant. -/
theorem Device.Inv.with_err_ie {p : Params} {d : Device} (hi : d.Inv p) (err : ErrCode) (ie : Bool) :
    ({ d with err := err, ie := ie } : Device).Inv p := { hi with }

/-- The induction along a run of a command: what holds of the device at its start, takes no notice of ERR and CTRL.IE,
and goes from k to k + 1 by a micro-step, holds at its end, of the number of ENGINE steps taken. -/
theorem CommandRun.induction_device {p : Params} {P : Nat → Device → Prop}
    (host : ∀ {k d} err ie, P k d → P k { d with err := err, ie := ie })
    (engine : ∀ {k d e}, d.Inv p → d.busy = true → d.micro p = .ok e → P k d → P (k + 1) e)
    {k : Nat} {s t : State} (hr : CommandRun k s t) (hp : s.params = p) (hi : s.dev.Inv p) (h0 : P 0 s.dev) :
    t.params = p ∧ t.dev.Inv p ∧ P k t.dev := by
  induction hr with
  | start s => exact ⟨hp, hi, h0⟩
  | engine _ hc h ih =>
    obtain ⟨hpu, hiu, hPu⟩ := ih hp hi h0
    obtain ⟨hpar, hb, hm⟩ := step_device_of_engine hc h
    rw [hpu] at hpar hm
    exact ⟨hpar, micro_inv hiu hb hm, engine hiu hb hm hPu⟩
  | host _ hb hc hnr h ih =>
    obtain ⟨hpu, hiu, hPu⟩ := ih hp hi h0
    obtain ⟨hpar, hd⟩ := step_device_of_host hc hb hnr h
    rw [hd]
    exact ⟨hpar.trans hpu, hiu.with_err_ie _ _, host _ _ hPu⟩

/-! ## The steps left -/

theorem stepsLeft_of_busy {d : Device} (hb : d.busy = true) :
    d.stepsLeft = d.blockStepsLeft + 114 * (d.nblk.toNat - 1 - d.blk.toNat) := if_pos hb

theorem stepsLeft_of_idle {d : Device} (hb : d.busy = false) : d.stepsLeft = 0 := by
  simp [Device.stepsLeft, hb]

/-- An accepted command has all its blocks before it. -/
theorem stepsLeft_start (m : Mode) {n : DWord} (hn : 0 < n) (d : Device) :
    (d.start m n).stepsLeft = 114 * n.toNat := by
  have hpos : 0 < n.toNat := hn
  rw [stepsLeft_of_busy (d.start_busy m n), Device.start_nblk, Device.start_blk]
  simp only [Device.blockStepsLeft, Device.start_phase, BitVec.ofNat_eq_ofNat, BitVec.toNat_zero]
  omega

/-- CNT is counted up without overflow before 63. -/
theorem toNat_cnt_add_one {c : BitVec 6} (hc : c.toNat < 63) : (c + 1).toNat = c.toNat + 1 := by bv_omega

/-- While a command runs, its next block is counted without overflow. -/
theorem Device.Inv.toNat_blk_add_one {p : Params} {d : Device} (hi : d.Inv p) (hb : d.busy = true) :
    (d.blk + 1).toNat = d.blk.toNat + 1 := by
  have := hi.block hb
  bv_omega

/-- A running command is in a phase of the ENGINE (10_state.md R43). -/
theorem Device.Inv.phase_ne_idle {p : Params} {d : Device} (hi : d.Inv p) (hb : d.busy = true) : d.phase ≠ .idle :=
  fun hp => by simp [hi.idle.1 hp] at hb

/-- Exactly an idle device has no step left. -/
theorem Device.Inv.stepsLeft_eq_zero_iff {p : Params} {d : Device} (hi : d.Inv p) :
    d.stepsLeft = 0 ↔ d.busy = false := by
  refine ⟨fun h => ?_, stepsLeft_of_idle⟩
  by_contra hne
  have hb : d.busy = true := by simpa using hne
  have none_left : d.blockStepsLeft = 0 := by
    rw [stepsLeft_of_busy hb] at h
    omega
  have := hi.phase_ne_idle hb
  cases hp : d.phase <;> simp [Device.blockStepsLeft, hp] at none_left this

/-- Within a block, one step fewer of the block is one fewer of the command. -/
theorem stepsLeft_add_one_of_same_block {d e : Device} (hd : d.busy = true) (he : e.busy = true)
    (hblk : e.blk = d.blk) (hnblk : e.nblk = d.nblk) (h : e.blockStepsLeft + 1 = d.blockStepsLeft) :
    e.stepsLeft + 1 = d.stepsLeft := by
  rw [stepsLeft_of_busy hd, stepsLeft_of_busy he, hblk, hnblk, ← h]
  omega

/-- Every micro-step leaves one step fewer, one case per row of 43_compression.md R254. -/
theorem micro_stepsLeft {p : Params} {d e : Device} (hi : d.Inv p) (hb : d.busy = true) (h : d.micro p = .ok e) :
    e.stepsLeft + 1 = d.stepsLeft := by
  have blk_succ := hi.toNat_blk_add_one hb
  rcases micro_cases h with ⟨hp, -, rfl⟩ | ⟨hp, -, hc, rfl⟩ | ⟨hp, hc, rfl⟩ | ⟨hp, hc, rfl⟩ | ⟨hp, hc, rfl⟩ |
    ⟨hp, ⟨-, hlt⟩, rfl⟩ | ⟨hp, hl, rfl⟩
  · refine stepsLeft_add_one_of_same_block hb hb rfl rfl ?_
    simp [Device.blockStepsLeft, hp]
  · refine stepsLeft_add_one_of_same_block hb hb rfl rfl ?_
    simp only [Device.blockStepsLeft, hp, toNat_cnt_add_one hc]
    omega
  · refine stepsLeft_add_one_of_same_block hb hb rfl rfl ?_
    simp [Device.blockStepsLeft, hp, hc]
  · refine stepsLeft_add_one_of_same_block hb hb rfl rfl ?_
    simp only [Device.blockStepsLeft, hp, toNat_cnt_add_one hc]
    omega
  · refine stepsLeft_add_one_of_same_block hb hb rfl rfl ?_
    simp [Device.blockStepsLeft, hp, hc]
  · have more : d.blk.toNat + 1 < d.nblk.toNat := blk_succ ▸ hlt
    simp only [Device.stepsLeft, Device.blockStepsLeft, hb, hp, if_true, blk_succ]
    omega
  · have last : d.nblk.toNat = d.blk.toNat + 1 := hi.last_block hb hl ▸ blk_succ
    rw [stepsLeft_of_busy hb, stepsLeft_of_idle rfl]
    simp only [Device.blockStepsLeft, hp]
    omega

/-- The micro-step that clears BUSY raises DONE (43_compression.md R252). -/
theorem micro_done_of_idle {p : Params} {d e : Device} (hb : d.busy = true) (h : d.micro p = .ok e)
    (hidle : e.busy = false) : e.done = true := by
  rcases micro_cases h with ⟨-, -, rfl⟩ | ⟨-, -, -, rfl⟩ | ⟨-, -, rfl⟩ | ⟨-, -, rfl⟩ | ⟨-, -, rfl⟩ | ⟨-, -, rfl⟩ |
    ⟨-, -, rfl⟩
  iterate 6
    · simp [hb] at hidle
  · rfl

/-- What a run of a command keeps, after k ENGINE steps of the n it had left: the rest is left, and a command that has
ended is done. -/
def Device.Countdown (n k : Nat) (d : Device) : Prop := d.stepsLeft + k = n ∧ (d.busy = false → d.done = true)

/-- One micro-step further in the countdown. -/
theorem micro_countdown {p : Params} {d e : Device} {n k : Nat} (hi : d.Inv p) (hb : d.busy = true)
    (h : d.micro p = .ok e) (hd : d.Countdown n k) : e.Countdown n (k + 1) := by
  refine ⟨?_, micro_done_of_idle hb h⟩
  have := micro_stepsLeft hi hb h
  have := hd.1
  omega

/-- Along every run of a command the ENGINE counts down its steps, whoever moves between them. -/
theorem CommandRun.countdown {k : Nat} {s t : State} (hr : CommandRun k s t) (hi : MachineInv s)
    (hb : s.dev.busy = true) : t.dev.Inv s.params ∧ t.dev.Countdown s.dev.stepsLeft k :=
  (hr.induction_device (P := Device.Countdown s.dev.stepsLeft) (fun _ _ h => h) micro_countdown rfl hi.device
    ⟨rfl, fun idle => by simp [hb] at idle⟩).2

/-- A command that leaves the idle ENGINE running is an accepted COMPRESS or HASH past its checks
(40_commands.md R155, R157). -/
theorem exec_starts {i : Instr} {s u : State} (hb : s.dev.busy = false) (h : exec i s = .next u)
    (hu : u.dev.busy = true) :
    (i = .compress ∧ u = s.withDev (s.dev.start .compress 1)) ∨
    (i = .hash ∧ s.dev.msgLen.toNat < 2 ^ 61 ∧
      u = s.withDev (s.dev.loadIV.start .hash (BitVec.ofNat 64 (nblocks s.dev.msgLen.toNat)))) := by
  obtain ⟨d, hx, hc⟩ := exec_cases i s
  obtain rfl : s.withDev d = u := by simpa [hx] using h
  rw [State.withDev_dev] at hu
  rcases hc with ⟨-, rfl⟩ | ⟨-, busy, -⟩ | ⟨-, ⟨-, rfl⟩ | ⟨rfl, rfl⟩ | ⟨rfl, rfl⟩ | ⟨-, rfl⟩⟩
  · simp [hb] at hu
  · simp [hb] at busy
  · simp [hb] at hu
  · exact .inl ⟨rfl, rfl⟩
  · rcases acceptHash_cases s.params s.dev with ⟨-, hd⟩ | ⟨-, -, hd⟩ | ⟨hn, -, hd⟩ <;> rw [hd] at hu ⊢
    · simp [hb] at hu
    · simp [hb] at hu
    · exact .inr ⟨rfl, hn, rfl⟩
  · simp [hb] at hu

/-- Settles O44: the start of a command by its acceptance, and the countdown along every run from there. -/
theorem commandsTakeExactly114StepsPerBlock : Obligations.CommandsTakeExactly114StepsPerBlock := by
  unfold Obligations.CommandsTakeExactly114StepsPerBlock
  refine ⟨fun i s u _ hb h hu => ?_, fun k s t hi hb hr => ?_⟩
  · rcases exec_starts hb h hu with ⟨rfl, rfl⟩ | ⟨rfl, hn, rfl⟩
    · exact ⟨.inl rfl, stepsLeft_start .compress (by decide) s.dev, rfl, rfl⟩
    · exact ⟨.inr rfl, stepsLeft_start .hash (zero_lt_ofNat_nblocks hn) s.dev.loadIV, rfl, rfl⟩
  · obtain ⟨hit, left, done⟩ := hr.countdown hi hb
    exact ⟨left, hit.stepsLeft_eq_zero_iff.symm, hit.phase_ne_idle, fun idle => ⟨done idle, hit.idle.2 idle⟩⟩

/-! ## The ENGINE alone -/

/-- A HASH that passed its checks can load every block it has (41_padding_framing.md R195, R196). -/
theorem Device.Inv.frameReady {p : Params} {d : Device} (hi : d.Inv p) (hb : d.busy = true) (hm : d.mode = .hash) :
    d.frameReady p = true := by
  obtain ⟨hn, hfits, hblocks⟩ := hi.hash hb hm
  have inside : d.blk.toNat < d.nblk.toNat := hi.block hb
  rw [hblocks, BitVec.toNat_ofNat] at inside
  have within : d.blk.toNat < nblocks d.msgLen.toNat := lt_of_lt_of_le inside (Nat.mod_le _ _)
  simp only [Device.frameReady, hn, hfits, within, decide_true, Bool.and_self]

/-- While a command runs, the micro-step its phase selects can be made (60_exceptions.md R293). -/
theorem Device.Inv.exists_micro {p : Params} {d : Device} (hi : d.Inv p) (hb : d.busy = true) :
    ∃ e, d.micro p = .ok e := by
  cases hp : d.phase with
  | idle => exact absurd hp (hi.phase_ne_idle hb)
  | load =>
    have ready : ¬(d.mode = .hash ∧ d.frameReady p = false) := fun ⟨hm, hf⟩ => by simp [hi.frameReady hb hm] at hf
    exact ⟨d.load p, by rw [Device.micro, hp]; exact if_neg ready⟩
  | expand => exact ⟨d.expandStep, by rw [Device.micro, hp]; exact if_neg (Nat.not_lt.2 (hi.expand hp))⟩
  | round => exact ⟨d.microRound, by rw [Device.micro, hp]⟩
  | fold => exact ⟨d.microFold, by rw [Device.micro, hp]⟩

/-- With nothing pending the step of a running command is its micro-step. -/
theorem step_of_engine_alone {s : State} {d : Device} (hb : s.dev.busy = true) (hp : s.pending = [])
    (hm : s.dev.micro s.params = .ok d) : step s = .next (s.withDev d) := by
  have alone : chooseAgent s = some (.engine, s) := by simp only [chooseAgent, hb, hp]
  simp only [step, agentStep, alone, engineStep, hm]

/-- The ENGINE alone takes the steps left and then rests. -/
theorem core_run_engine_alone {n : Nat} {s : State} (hi : s.dev.Inv s.params) (hp : s.pending = [])
    (hd : s.dev.Countdown n 0) :
    ∃ d, Sys2Proof.core.run n s = .next (s.withDev d) ∧ d.busy = false ∧ d.done = true := by
  induction n generalizing s with
  | zero =>
    have idle := hi.stepsLeft_eq_zero_iff.1 hd.1
    exact ⟨s.dev, core_run_zero s, idle, hd.2 idle⟩
  | succ n ih =>
    have hb : s.dev.busy = true := by
      by_contra hne
      have := stepsLeft_of_idle (by simpa using hne : s.dev.busy = false)
      have := hd.1
      omega
    obtain ⟨e, hm⟩ := hi.exists_micro hb
    have next : e.Countdown n 0 := by
      obtain ⟨left, done⟩ := micro_countdown hi hb hm hd
      exact ⟨by omega, done⟩
    obtain ⟨d, hrun, hidle, hdone⟩ := ih (s := s.withDev e) (micro_inv hi hb hm) hp next
    exact ⟨d, (core_run_succ (step_of_engine_alone hb hp hm)).trans hrun, hidle, hdone⟩

/-- Settles O45: the run of the ENGINE alone changes only the device. -/
theorem engineAloneCompletesTheCommand : Obligations.EngineAloneCompletesTheCommand := by
  unfold Obligations.EngineAloneCompletesTheCommand
  intro s hi hb hp
  obtain ⟨d, hrun, idle, done⟩ :=
    core_run_engine_alone hi.device hp ⟨rfl, fun idle => by simp [hb] at idle⟩
  exact ⟨s.withDev d, hrun, idle, done, hp, rfl⟩

end Sys2Proof.Machine
end

section
/-! PROOFS. What COMPRESS and HASH compute (40_commands.md R156, R158): the ENGINE's registers follow the pure functions
of 42_schedule.md and 43_compression.md, micro-step by micro-step, under every interleaving. -/

namespace Sys2Proof.Machine

/-! ## The schedule of a block (42_schedule.md R223) -/

/-- A schedule word depends only on the words before it. -/
theorem scheduleWord_congr {V W : Vector Word 64} {j : Nat} (hj : 16 ≤ j)
    (h : ∀ i, i < j → fileRead V i = fileRead W i) : scheduleWord V j = scheduleWord W j := by
  rw [scheduleWord, scheduleWord, h (j - 2) (by omega), h (j - 7) (by omega), h (j - 15) (by omega),
    h (j - 16) (by omega)]

/-- The word computed is the schedule word, and every other word stands (42_schedule.md R226). -/
theorem fileRead_expandWord (W : Vector Word 64) {c : Nat} (hc : c < 64) (j : Nat) :
    fileRead (expandWord W c) j = if j = c then scheduleWord W c else fileRead W j := by
  simp only [expandWord, fileRead_fileWrite, hc, and_true]

/-- The schedule with its first n words after the block's computed. -/
def expandFirst (B : Vector Word 16) (n : Nat) : Vector Word 64 :=
  (List.range' 16 n).foldl expandWord (loadWords (Vector.replicate 64 0) B)

theorem expandFirst_succ (B : Vector Word 16) (n : Nat) :
    expandFirst B (n + 1) = expandWord (expandFirst B n) (16 + n) := by
  rw [expandFirst, List.range'_1_concat, List.foldl_append]
  rfl

/-- Computing the next word leaves every word before it. -/
theorem fileRead_expandFirst_succ (B : Vector Word 16) {n j : Nat} (hn : n < 48) (hj : j < 16 + n) :
    fileRead (expandFirst B (n + 1)) j = fileRead (expandFirst B n) j := by
  rw [expandFirst_succ, fileRead_expandWord _ (by omega), if_neg (by omega)]

/-- The words computed so far meet the recurrence, over the words of the same schedule. -/
theorem fileRead_expandFirst (B : Vector Word 16) {n j : Nat} (hn : n ≤ 48) (hj : j < 16 + n) :
    fileRead (expandFirst B n) j = if j < 16 then fileRead B j else scheduleWord (expandFirst B n) j := by
  induction n with
  | zero => rw [expandFirst, List.range'_zero, List.foldl_nil, fileRead_loadWords, if_pos hj, if_pos hj]
  | succ n ih =>
    have before : ∀ i, i < 16 + n → fileRead (expandFirst B (n + 1)) i = fileRead (expandFirst B n) i :=
      fun i hi => fileRead_expandFirst_succ B hn hi
    have words : ∀ i, 16 ≤ i → i ≤ 16 + n →
        scheduleWord (expandFirst B (n + 1)) i = scheduleWord (expandFirst B n) i :=
      fun i h16 hi => scheduleWord_congr h16 fun k hk => before k (by omega)
    rcases Nat.lt_or_ge j (16 + n) with hlt | hge
    · rw [before j hlt, ih (by omega) hlt]
      split
      · rfl
      · exact (words j (by omega) (by omega)).symm
    · obtain rfl : j = 16 + n := by omega
      rw [if_neg (by omega), words _ (by omega) (by omega), expandFirst_succ, fileRead_expandWord _ (by omega),
        if_pos rfl]

/-- The first sixteen words of a schedule are its block's (42_schedule.md R223). -/
theorem fileRead_expand_of_lt (B : Vector Word 16) {j : Nat} (hj : j < 16) :
    fileRead (expand B) j = fileRead B j :=
  (fileRead_expandFirst B le_rfl (by omega)).trans (if_pos hj)

/-- The later words of a schedule are the recurrence over its own words (42_schedule.md R223). -/
theorem fileRead_expand_of_ge (B : Vector Word 16) {j : Nat} (h16 : 16 ≤ j) (hj : j < 64) :
    fileRead (expand B) j = scheduleWord (expand B) j :=
  (fileRead_expandFirst B le_rfl hj).trans (if_neg (by omega))

/-- W holds the first c words of the schedule of B. -/
def ScheduleUpTo (B : Vector Word 16) (W : Vector Word 64) (c : Nat) : Prop :=
  ∀ j, j < c → fileRead W j = fileRead (expand B) j

/-- After LOAD the block's words are there. -/
theorem scheduleUpTo_loadWords (W : Vector Word 64) (B : Vector Word 16) : ScheduleUpTo B (loadWords W B) 16 :=
  fun j hj => by rw [fileRead_loadWords, if_pos hj, fileRead_expand_of_lt B hj]

/-- EXPAND adds the next word. -/
theorem ScheduleUpTo.succ {B : Vector Word 16} {W : Vector Word 64} {c : Nat} (h : ScheduleUpTo B W c)
    (h16 : 16 ≤ c) (hc : c < 64) : ScheduleUpTo B (expandWord W c) (c + 1) := by
  intro j hj
  rw [fileRead_expandWord W hc]
  split
  · subst j
    rw [fileRead_expand_of_ge B h16 hc, scheduleWord_congr h16 h]
  · exact h j (by omega)

/-- With all its words there the schedule is the whole one. -/
theorem ScheduleUpTo.eq_expand {B : Vector Word 16} {W : Vector Word 64} (h : ScheduleUpTo B W 64) : W = expand B :=
  file_ext _ _ h

/-! ## The rounds and the blocks (43_compression.md R260, R261) -/

/-- The working variables after the first c rounds of a block. -/
def roundsUpTo (W : Vector Word 64) (h : Vector Word 8) (c : Nat) : WorkVars :=
  (List.range c).foldl (roundVars W) (seedVars h)

/-- A block has 64 rounds. -/
theorem rounds_eq_roundsUpTo (W : Vector Word 64) (h : Vector Word 8) : rounds W h = roundsUpTo W h 64 := rfl

theorem roundsUpTo_zero (W : Vector Word 64) (h : Vector Word 8) : roundsUpTo W h 0 = seedVars h := rfl

theorem roundsUpTo_succ (W : Vector Word 64) (h : Vector Word 8) (c : Nat) :
    roundsUpTo W h (c + 1) = roundVars W (roundsUpTo W h c) c := by
  rw [roundsUpTo, List.range_succ, List.foldl_append]
  rfl

/-- The hash state after the first k of the blocks B, from h. -/
def compressBlocks (h : Vector Word 8) (B : Nat → Vector Word 16) (k : Nat) : Vector Word 8 :=
  (List.range k).foldl (fun h b => compress h (B b)) h

theorem compressBlocks_succ (h : Vector Word 8) (B : Nat → Vector Word 16) (k : Nat) :
    compressBlocks h B (k + 1) = compress (compressBlocks h B k) (B k) := by
  rw [compressBlocks, List.range_succ, List.foldl_append]
  rfl

/-! ## What the ENGINE has computed -/

/-- Block i of the running command: M for COMPRESS, block i of the padded stream for HASH (43_compression.md R240). -/
def Device.blockAt (p : Params) (d : Device) (i : Nat) : Vector Word 16 :=
  match d.mode with
  | .compress => d.M
  | .hash => frameBlock (memRead p d.msgmem) d.msgLen.toNat i

/-- LOAD brings in block BLK. -/
theorem sourceBlock_eq_blockAt (p : Params) (d : Device) : d.sourceBlock p = d.blockAt p d.blk.toNat := rfl

/-- The blocks of a command are functions of its inputs. -/
theorem blockAt_of_inputs {d e : Device} (h : e.inputs = d.inputs) (p : Params) : e.blockAt p = d.blockAt p := by
  simp only [Device.inputs, Prod.mk.injEq] at h
  obtain ⟨hM, hlen, hmem, hmode, -⟩ := h
  funext i
  rw [Device.blockAt, Device.blockAt, hM, hlen, hmem, hmode]

/-- The hash state the running block starts from, in a command that started from h. -/
def Device.startHash (p : Params) (h : Vector Word 8) (d : Device) : Vector Word 8 :=
  compressBlocks h (d.blockAt p) d.blk.toNat

/-- What the registers hold in each phase of a command that started from the hash state h: while a block is processed H
is compress of the blocks before it, and W and wv are as far as CNT says; at the end H is compress of all blocks. -/
def Device.Computes (p : Params) (h : Vector Word 8) (d : Device) : Prop :=
  match d.phase with
  | .load => d.H = d.startHash p h
  | .expand => d.H = d.startHash p h ∧ ScheduleUpTo (d.sourceBlock p) d.W d.cnt.toNat
  | .round => d.H = d.startHash p h ∧ d.W = expand (d.sourceBlock p) ∧ d.wv = roundsUpTo d.W d.H d.cnt.toNat
  | .fold => d.H = d.startHash p h ∧ d.wv = rounds (expand (d.sourceBlock p)) d.H
  | .idle => d.H = compressBlocks h (d.blockAt p) d.nblk.toNat

section
variable {p : Params} {h : Vector Word 8} {d : Device}

theorem computes_load_iff (hp : d.phase = .load) : d.Computes p h ↔ d.H = d.startHash p h := by
  rw [Device.Computes, hp]

theorem computes_expand_iff (hp : d.phase = .expand) : d.Computes p h ↔
    d.H = d.startHash p h ∧ ScheduleUpTo (d.sourceBlock p) d.W d.cnt.toNat := by
  rw [Device.Computes, hp]

theorem computes_round_iff (hp : d.phase = .round) : d.Computes p h ↔
    d.H = d.startHash p h ∧ d.W = expand (d.sourceBlock p) ∧ d.wv = roundsUpTo d.W d.H d.cnt.toNat := by
  rw [Device.Computes, hp]

theorem computes_fold_iff (hp : d.phase = .fold) : d.Computes p h ↔
    d.H = d.startHash p h ∧ d.wv = rounds (expand (d.sourceBlock p)) d.H := by
  rw [Device.Computes, hp]

theorem computes_idle_iff (hp : d.phase = .idle) :
    d.Computes p h ↔ d.H = compressBlocks h (d.blockAt p) d.nblk.toNat := by
  rw [Device.Computes, hp]

/-- FOLD ends its block (43_compression.md R252, R260). -/
theorem foldHash_of_computes (hp : d.phase = .fold) (hc : d.Computes p h) :
    foldHash d.H d.wv = compressBlocks h (d.blockAt p) (d.blk.toNat + 1) := by
  obtain ⟨hH, hwv⟩ := (computes_fold_iff hp).1 hc
  rw [compressBlocks_succ, ← sourceBlock_eq_blockAt, hwv, ← compress, hH, Device.startHash]

theorem load_computes (hp : d.phase = .load) (hc : d.Computes p h) : (d.load p).Computes p h :=
  (computes_expand_iff rfl).2
    ⟨(computes_load_iff hp).1 hc, scheduleUpTo_loadWords d.W (d.sourceBlock p)⟩

theorem expand_computes (hp : d.phase = .expand) (h16 : 16 ≤ d.cnt.toNat) (h63 : d.cnt.toNat < 63)
    (hc : d.Computes p h) :
    Device.Computes p h { d with W := expandWord d.W d.cnt.toNat, cnt := d.cnt + 1 } := by
  obtain ⟨hH, hW⟩ := (computes_expand_iff hp).1 hc
  have grown := hW.succ h16 (by omega)
  rw [← toNat_cnt_add_one h63] at grown
  refine (computes_expand_iff ?_).2 ⟨hH, grown⟩
  exact hp

/-! The lemmas that follow name what a micro-step leaves in a register, so that the record after the step is the one
before it with a variable there. -/

theorem lastExpand_computes {v : WorkVars} {V : Vector Word 64} (hp : d.phase = .expand) (h63 : d.cnt.toNat = 63)
    (hv : v = seedVars d.H) (hV : V = expandWord d.W 63) (hc : d.Computes p h) :
    Device.Computes p h { d with wv := v, W := V, cnt := 0, phase := .round } := by
  obtain ⟨hH, hW⟩ := (computes_expand_iff hp).1 hc
  rw [h63] at hW
  have whole : V = expand (d.sourceBlock p) := hV.trans (hW.succ (by decide) (by decide)).eq_expand
  exact (computes_round_iff rfl).2 ⟨hH, whole, hv.trans (roundsUpTo_zero V d.H).symm⟩

theorem round_computes {v : WorkVars} (hp : d.phase = .round) (h63 : d.cnt.toNat < 63)
    (hv : v = roundVars d.W d.wv d.cnt.toNat) (hc : d.Computes p h) :
    Device.Computes p h { d with wv := v, cnt := d.cnt + 1 } := by
  obtain ⟨hH, hW, hwv⟩ := (computes_round_iff hp).1 hc
  have next : v = roundsUpTo d.W d.H (d.cnt + 1).toNat := by
    rw [toNat_cnt_add_one h63, roundsUpTo_succ, ← hwv, hv]
  refine (computes_round_iff ?_).2 ⟨hH, hW, next⟩
  exact hp

theorem lastRound_computes {v : WorkVars} (hp : d.phase = .round) (h63 : d.cnt.toNat = 63)
    (hv : v = roundVars d.W d.wv 63) (hc : d.Computes p h) :
    Device.Computes p h { d with wv := v, cnt := 0, phase := .fold } := by
  obtain ⟨hH, hW, hwv⟩ := (computes_round_iff hp).1 hc
  have all : v = rounds (expand (d.sourceBlock p)) d.H := by
    rw [rounds_eq_roundsUpTo, roundsUpTo_succ, ← hW, ← h63, ← hwv, h63, hv]
  exact (computes_fold_iff rfl).2 ⟨hH, all⟩

theorem fold_computes {g : Vector Word 8} (hblk : (d.blk + 1).toNat = d.blk.toNat + 1)
    (hg : g = compressBlocks h (d.blockAt p) (d.blk.toNat + 1)) :
    Device.Computes p h { d with H := g, blk := d.blk + 1, phase := .load } := by
  rw [← hblk] at hg
  exact (computes_load_iff rfl).2 hg

theorem lastFold_computes {g : Vector Word 8} (hnblk : d.nblk.toNat = d.blk.toNat + 1)
    (hg : g = compressBlocks h (d.blockAt p) (d.blk.toNat + 1)) :
    Device.Computes p h { d with H := g, busy := false, done := true, phase := .idle } := by
  rw [← hnblk] at hg
  exact (computes_idle_iff rfl).2 hg

/-- Every micro-step computes what its phase should, one case per row of 43_compression.md R254. -/
theorem micro_computes {e : Device} (hi : d.Inv p) (hb : d.busy = true) (hm : d.micro p = .ok e)
    (hc : d.Computes p h) : e.Computes p h := by
  have hblk := hi.toNat_blk_add_one hb
  have cnt63 : d.cnt = 63 → d.cnt.toNat = 63 := fun h63 => by rw [h63]; rfl
  rcases micro_cases hm with ⟨hp, -, rfl⟩ | ⟨hp, h16, h63, rfl⟩ | ⟨hp, h63, rfl⟩ | ⟨hp, h63, rfl⟩ | ⟨hp, h63, rfl⟩ |
    ⟨hp, -, rfl⟩ | ⟨hp, hl, rfl⟩
  · exact load_computes hp hc
  · exact expand_computes hp h16 h63 hc
  · exact lastExpand_computes hp (cnt63 h63) rfl rfl hc
  · exact round_computes hp h63 rfl hc
  · exact lastRound_computes hp (cnt63 h63) rfl hc
  · exact fold_computes hblk (foldHash_of_computes hp hc)
  · exact lastFold_computes (hi.last_block hb hl ▸ hblk) (foldHash_of_computes hp hc)

/-- Nothing is computed of an accepted command yet: it starts from the hash state it finds. -/
theorem start_computes (m : Mode) (n : DWord) : (d.start m n).Computes p d.H := (computes_load_iff rfl).2 rfl

end

/-! ## The result of a command -/

/-- At the end of a run of a command that started from h, H is compress of its blocks, DONE = 1, and the ENGINE has
taken the steps the command had. -/
theorem CommandRun.result {k : Nat} {h : Vector Word 8} {s t : State} (hr : CommandRun k s t) (hi : MachineInv s)
    (hb : s.dev.busy = true) (hc : s.dev.Computes s.params h) (ht : t.dev.busy = false) :
    t.dev.done = true ∧ t.dev.H = compressBlocks h (s.dev.blockAt s.params) s.dev.nblk.toNat ∧ k = s.dev.stepsLeft := by
  obtain ⟨hit, left, done⟩ := hr.countdown hi hb
  have computed : t.dev.Computes s.params h :=
    (hr.induction_device (P := fun _ d => d.Computes s.params h) (fun _ _ hd => hd) micro_computes rfl
      hi.device hc).2.2
  have hH := (computes_idle_iff (hit.idle.2 ht)).1 computed
  obtain ⟨-, -, -, -, nblk⟩ := commandInputsAreImmutable k s t hb hr
  rw [blockAt_of_inputs hr.inputs, nblk] at hH
  rw [stepsLeft_of_idle ht, Nat.zero_add] at left
  exact ⟨done ht, hH, left⟩

/-- A command keeps the invariant, as the step that runs it does. -/
theorem MachineInv.of_exec {i : Instr} {s u : State} (hi : MachineInv s) (h : exec i s = .next u) : MachineInv u := by
  refine stepKeepsTheInvariant (s.withFetchWord 32 (encode i).toNat) u ⟨hi.params, hi.device⟩ ?_
  rw [placedCommandRunsNext, h]

/-- Settles O42: the one block of COMPRESS is M, and its hash state is H at the acceptance. -/
theorem compressComputesTheCompressionFunction : Obligations.CompressComputesTheCompressionFunction := by
  unfold Obligations.CompressComputesTheCompressionFunction
  intro k s u t hi hb h hr ht
  have hu := hi.of_exec h
  obtain rfl : s.withDev (s.dev.start .compress 1) = u := by simpa [exec_compress_idle hb] using h
  obtain ⟨done, hH, hk⟩ := hr.result hu rfl (start_computes .compress 1) ht
  exact ⟨done, hH.trans (compressBlocks_succ s.dev.H _ 0), hk.trans (stepsLeft_start .compress (by decide) s.dev)⟩

/-! ## The message of HASH -/

/-- The padded stream reads the message only below its length (41_padding_framing.md R195). -/
theorem frameByte_congr {f g : Nat → Byte} {n : Nat} (h : ∀ i, i < n → f i = g i) : frameByte f n = frameByte g n := by
  funext i
  by_cases hi : i < n
  · rw [frameByte, frameByte, if_pos hi, if_pos hi, h i hi]
  · rw [frameByte, frameByte, if_neg hi, if_neg hi]

theorem frameBlock_congr {f g : Nat → Byte} {n : Nat} (h : ∀ i, i < n → f i = g i) :
    frameBlock f n = frameBlock g n := by
  have words : frameWord f n = frameWord g n := by
    funext b t
    simp only [frameWord, frameByte_congr h]
  funext b
  simp only [frameBlock, words]

theorem length_message (p : Params) (d : Device) : (d.message p).length = d.msgLen.toNat := by
  simp [Device.message]

theorem messageByte_message (p : Params) (d : Device) {i : Nat} (hi : i < d.msgLen.toNat) :
    messageByte (d.message p) i = memRead p d.msgmem i := by
  simp [messageByte, Device.message, hi]

/-- The words HASH computes, block by block of the message memory, are the message's SHA-256 (43_compression.md R261). -/
theorem sha256Words_message (p : Params) (d : Device) : sha256Words (d.message p) =
    compressBlocks initialHash (frameBlock (memRead p d.msgmem) d.msgLen.toNat) (nblocks d.msgLen.toNat) := by
  rw [sha256Words, length_message, ← frameBlock_congr fun i => messageByte_message p d]
  rfl

/-- Settles O43: HASH starts from IV, and its blocks are those of the padded message. -/
theorem hashComputesSha256 : Obligations.HashComputesSha256 := by
  unfold Obligations.HashComputesSha256
  intro k s u t hi hb h hbu hr ht
  have hu := hi.of_exec h
  obtain ⟨hcmd, -⟩ | ⟨-, hn, rfl⟩ := exec_starts hb h hbu
  · simp at hcmd
  have fits : (BitVec.ofNat 64 (nblocks s.dev.msgLen.toNat)).toNat = nblocks s.dev.msgLen.toNat := by
    rw [BitVec.toNat_ofNat, nblocks]
    omega
  obtain ⟨done, hH, hk⟩ := hr.result hu hbu (start_computes .hash _) ht
  have digest : t.dev.H = sha256Words (s.dev.message s.params) := by
    rw [hH, sha256Words_message]
    exact congrArg _ fits
  refine ⟨done, digest, by rw [digest, sha256], ?_⟩
  rw [hk, State.withDev_dev, stepsLeft_start .hash (zero_lt_ofNat_nblocks hn), fits]

end Sys2Proof.Machine
end

section
/-! PROOFS. Padding and framing (41_padding_framing.md R190 to R195): the block count, the padded stream read byte by
byte through FrameByte, and read bit by bit as the standard's stream. -/

namespace Sys2Proof.Machine

/-! ## The block count (41_padding_framing.md R192, R193) -/

/-- b blocks hold the message, 0x80 and the length exactly when b is at least the block count. -/
theorem nblocks_le_iff {n b : Nat} : nblocks n ≤ b ↔ n + 9 ≤ 64 * b := by
  rw [nblocks]
  omega

theorem nblocks_pos (n : Nat) : 1 ≤ nblocks n := Nat.succ_pos _

theorem add_nine_le_paddedLength (n : Nat) : n + 9 ≤ paddedLength n := nblocks_le_iff.mp le_rfl

/-- Settles O56: `nblocks_le_iff` at the count itself, at one block fewer, and at the bound. -/
theorem blockCountIsTheLeast : Obligations.BlockCountIsTheLeast := by
  unfold Obligations.BlockCountIsTheLeast
  refine ⟨fun n => ⟨rfl, add_nine_le_paddedLength n, ?_, nblocks_pos n⟩, fun n hn => ⟨?_, by decide⟩, by decide⟩
  · have pos := nblocks_pos n
    by_contra fewer
    have : nblocks n ≤ nblocks n - 1 := nblocks_le_iff.mpr (Nat.le_of_not_lt fewer)
    omega
  · rw [nblocks_le_iff]
    omega

/-! ## The framed bytes (41_padding_framing.md R194, R195) -/

theorem length_paddedBytes (m : List Byte) : (paddedBytes m).length = paddedLength m.length := by
  have room := add_nine_le_paddedLength m.length
  simp only [paddedBytes, List.length_append, List.length_cons, List.length_nil, List.length_replicate,
    List.length_map, List.length_range]
  omega

/-- The bytes after the message and 0x80: the zero fill up to the last 8 bytes, then those of the length. -/
theorem getElem?_paddedBytes_tail (m : List Byte) {p : Nat} (hm : m.length < p) (hp : p < paddedLength m.length) :
    (paddedBytes m)[p]? = some (frameByte (messageByte m) m.length p) := by
  have room := add_nine_le_paddedLength m.length
  have before : (m ++ [(0x80 : Byte)]).length = m.length + 1 := by simp
  rw [paddedBytes, List.append_assoc, List.getElem?_append_right (by omega), before, frameByte, if_neg hm.not_gt,
    if_neg hm.ne']
  split
  case isTrue zero =>
    rw [List.getElem?_append_left (by rw [List.length_replicate]; omega), List.getElem?_replicate_of_lt (by omega)]
  case isFalse last =>
    have fill : p - (m.length + 1) - (paddedLength m.length - m.length - 9) =
        p - (paddedLength m.length - 8) := by omega
    rw [List.getElem?_append_right (by rw [List.length_replicate]; omega), List.length_replicate, fill,
      List.getElem?_map, List.getElem?_range (by omega), Option.map_some]

/-- Settles O57: a byte of the message, the byte 0x80, or a byte after them. -/
theorem framedBytesAreThePaddedStream : Obligations.FramedBytesAreThePaddedStream := by
  unfold Obligations.FramedBytesAreThePaddedStream
  refine fun m => ⟨length_paddedBytes m, fun p hp => ?_⟩
  rcases lt_trichotomy p m.length with inside | rfl | after
  · simp [paddedBytes, frameByte, messageByte, inside, List.getElem?_append_left]
  · simp [paddedBytes, frameByte]
  · exact getElem?_paddedBytes_tail m after hp

/-! ## The framed bits (41_padding_framing.md R190, R191, R194) -/

@[simp] theorem bitsOfBytes_append (as bs : List Byte) : bitsOfBytes (as ++ bs) = bitsOfBytes as ++ bitsOfBytes bs :=
  List.flatMap_append

/-- The byte 0x80 is the 1 bit and the first seven 0 bits. -/
theorem bitsOfBytes_marker : bitsOfBytes [0x80] = [true] ++ List.replicate 7 false := by decide

theorem bitsOfBytes_replicate_zero (k : Nat) : bitsOfBytes (List.replicate k 0x00) = List.replicate (8 * k) false := by
  have zero : bitsMsbFirst (0x00 : Byte) = List.replicate 8 false := by decide
  induction k with
  | zero => rfl
  | succ k ih =>
    rw [List.replicate_succ', bitsOfBytes_append, ih, bitsOfBytes, List.flatMap_singleton, zero,
      List.replicate_append_replicate, Nat.mul_succ]

/-- Bit j of byte k of the length, from the most significant on, is bit 8k + j of the length. -/
theorem getMsbD_be64Byte (len : DWord) {k j : Nat} (hk : k < 8) (hj : j < 8) :
    (be64Byte k len).getMsbD j = len.getMsbD (8 * k + j) := by
  have place : 56 - 8 * k + (8 - 1 - j) = 64 - 1 - (8 * k + j) := by omega
  have low : 8 - 1 - j < 8 := by omega
  have whole : 8 * k + j < 64 := by omega
  simp [be64Byte, BitVec.getMsbD_eq_getLsbD, hj, whole, low, place]

/-- The eight bytes of the length, most significant first, are its 64 bits. -/
theorem bitsOfBytes_be64Byte (len : DWord) :
    bitsOfBytes ((List.range 8).map fun k => be64Byte k len) = bitsMsbFirst len := by
  have positions : List.range 64 = (List.range 8).flatMap fun k => (List.range 8).map (8 * k + ·) := by decide
  rw [bitsOfBytes, List.flatMap_map, bitsMsbFirst, positions, List.map_flatMap]
  refine List.flatMap_congr fun k hk => ?_
  rw [bitsMsbFirst, List.map_map]
  exact List.map_congr_left fun j hj => getMsbD_be64Byte len (List.mem_range.mp hk) (List.mem_range.mp hj)

/-- The number of 0 bits of the padded stream: seven from 0x80 and the zero bytes (41_padding_framing.md R194). -/
def zeroBits (n : Nat) : Nat := 7 + 8 * (paddedLength n - n - 9)

theorem bitsOfBytes_paddedBytes (m : List Byte) : bitsOfBytes (paddedBytes m) = paddedBits m (zeroBits m.length) := by
  simp only [paddedBytes, paddedBits, zeroBits, bitsOfBytes_append, bitsOfBytes_marker, bitsOfBytes_replicate_zero,
    bitsOfBytes_be64Byte, List.replicate_add, List.append_assoc]

theorem bits_eq_blocks (n : Nat) : 8 * n + 1 + zeroBits n + 64 = 512 * nblocks n := by
  have room := add_nine_le_paddedLength n
  rw [zeroBits, paddedLength] at *
  omega

/-- Whatever number of 0 bits fills whole blocks, those blocks hold the message, 0x80 and the length, so they are at
least as many as the block count. -/
theorem zeroBits_le {n z : Nat} (h : (8 * n + 1 + z + 64) % 512 = 0) : zeroBits n ≤ z := by
  obtain ⟨b, hb⟩ := Nat.dvd_of_mod_eq_zero h
  have enough : nblocks n ≤ b := nblocks_le_iff.mpr (by omega)
  have whole := bits_eq_blocks n
  omega

/-- The length field holds the bit length with no truncation (41_padding_framing.md R191). -/
theorem toNat_bitLength {n : Nat} (hn : n < 2 ^ 61) : (bitLength n).toNat = 8 * n := by
  rw [bitLength, BitVec.toNat_ofNat]
  omega

/-- Settles O58: z is `zeroBits`, which fills whole blocks and is the least that does. -/
theorem paddedBytesAreThePaddedBitStream : Obligations.PaddedBytesAreThePaddedBitStream := by
  unfold Obligations.PaddedBytesAreThePaddedBitStream
  refine fun m hm => ⟨zeroBits m.length, bitsOfBytes_paddedBytes m, ?_, fun z' less whole => ?_, toNat_bitLength hm⟩
  · rw [bits_eq_blocks, Nat.mul_mod_right]
  · exact absurd (zeroBits_le whole) (Nat.not_le_of_lt less)

end Sys2Proof.Machine
end

section
/-! PROOFS. The message schedule (42_schedule.md): the mixing functions, the whole schedule of a block, and EXPAND. -/

namespace Sys2Proof.Machine

/-! ## The mixing functions (42_schedule.md R220, R221; 43_compression.md R244, R245) -/

theorem ssig0_eq_rotateRight (x : Word) : ssig0 x = x.rotateRight 7 ^^^ x.rotateRight 18 ^^^ x >>> 3 := by
  rw [ssig0, rotr_eq_rotateRight x (by decide), rotr_eq_rotateRight x (by decide), shr]

theorem ssig1_eq_rotateRight (x : Word) : ssig1 x = x.rotateRight 17 ^^^ x.rotateRight 19 ^^^ x >>> 10 := by
  rw [ssig1, rotr_eq_rotateRight x (by decide), rotr_eq_rotateRight x (by decide), shr]

theorem bsig1_eq_rotateRight (e : Word) :
    bsig1 e = e.rotateRight 6 ^^^ e.rotateRight 11 ^^^ e.rotateRight 25 := by
  rw [bsig1, rotr_eq_rotateRight e (by decide), rotr_eq_rotateRight e (by decide), rotr_eq_rotateRight e (by decide)]

theorem bsig0_eq_rotateRight (a : Word) :
    bsig0 a = a.rotateRight 2 ^^^ a.rotateRight 13 ^^^ a.rotateRight 22 := by
  rw [bsig0, rotr_eq_rotateRight a (by decide), rotr_eq_rotateRight a (by decide), rotr_eq_rotateRight a (by decide)]

/-- Settles O53: the four formulas by the rotation's agreement with the library's, and the listed values by
evaluation. -/
theorem mixingFunctionsAreTheSpecs : Obligations.MixingFunctionsAreTheSpecs := by
  unfold Obligations.MixingFunctionsAreTheSpecs
  exact ⟨ssig0_eq_rotateRight, ssig1_eq_rotateRight, bsig1_eq_rotateRight, bsig0_eq_rotateRight, by decide⟩

/-! ## The whole schedule of a block (42_schedule.md R223) -/

/-- Settles O55: below 16 a schedule word is the block's, and from 16 on it is the recurrence. -/
theorem scheduleMeetsItsRecurrence : Obligations.ScheduleMeetsItsRecurrence := by
  unfold Obligations.ScheduleMeetsItsRecurrence
  refine fun B => ⟨fun j => ?_, fun j h16 h64 => ?_⟩
  · exact (fileRead_expand_of_lt B j.isLt).trans (fileRead_lt B j j.isLt)
  · exact (fileRead_expand_of_ge B h16 h64).trans (by rw [scheduleWord])

/-! ## EXPAND (42_schedule.md R226) -/

theorem engineStep_of_micro {s : State} {d : Device} (h : s.dev.micro s.params = .ok d) :
    engineStep s = .next (s.withDev d) := by
  rw [engineStep, h]

/-- From CNT = 16 on EXPAND does not fault. -/
theorem micro_of_expand {p : Params} {d : Device} (hp : d.phase = .expand) (h16 : 16 ≤ d.cnt.toNat) :
    d.micro p = .ok d.expandStep := by
  rw [Device.micro, hp]
  exact if_neg (Nat.not_lt.2 h16)

theorem expandStep_of_lt {d : Device} (h : d.cnt.toNat < 63) :
    d.expandStep = { d with W := expandWord d.W d.cnt.toNat, cnt := d.cnt + 1 } := if_pos h

theorem expandStep_of_last {d : Device} (h : d.cnt.toNat = 63) :
    d.expandStep = { d with W := expandWord d.W d.cnt.toNat, cnt := 0, phase := .round, wv := seedVars d.H } :=
  if_neg h.not_lt

/-- Below 63 and at 63 alike, EXPAND leaves the schedule with word CNT computed. -/
@[simp] theorem Device.expandStep_W (d : Device) : d.expandStep.W = expandWord d.W d.cnt.toNat := by
  rw [Device.expandStep]
  split
  · rfl
  · rfl

/-- The working variables take the eight words of H in order (43_compression.md R242). -/
theorem seedVars_eq_getElem (H : Vector Word 8) :
    seedVars H = { a := H[0], b := H[1], c := H[2], d := H[3], e := H[4], f := H[5], g := H[6], h := H[7] } := by
  simp [seedVars, fileRead_lt]

/-- Settles O30: the schedule after the step by the read of `expandWord`, and the rest of the device by the two branches
of EXPAND. -/
theorem expandComputesTheNextScheduleWord : Obligations.ExpandComputesTheNextScheduleWord := by
  unfold Obligations.ExpandComputesTheNextScheduleWord
  intro s _ hp h16
  have words := fileRead_expandWord s.dev.W s.dev.cnt.isLt
  refine ⟨_, engineStep_of_micro (micro_of_expand hp h16), ?_, fun j hj => ?_, fun hlt => ?_, fun hlast => ?_⟩ <;>
    rw [State.withDev_dev, Device.expandStep_W]
  · rw [words, if_pos rfl, scheduleWord]
  · rw [words, if_neg hj]
  · rw [expandStep_of_lt hlt]
  · rw [expandStep_of_last hlast, seedVars_eq_getElem]

end Sys2Proof.Machine
end

section
/-! PROOFS. Compression (43_compression.md): the micro-steps LOAD, FOLD and ROUND, the sequencer's table, Ch and Maj bit by
bit, and the digest's bytes. -/

namespace Sys2Proof.Machine

/-! ## LOAD (43_compression.md R240) -/

/-- In COMPRESS mode, and in HASH mode with a framed block to load, LOAD does not fault. -/
theorem micro_of_load {p : Params} {d : Device} (hp : d.phase = .load) (hr : d.mode = .hash → d.frameReady p = true) :
    d.micro p = .ok (d.load p) := by
  rw [Device.micro, hp]
  exact if_neg fun ⟨hm, hf⟩ => by simp [hr hm] at hf

theorem fileRead_frameBlock (msg : Nat → Byte) (n b : Nat) (k : Fin 16) :
    fileRead (frameBlock msg n b) k.val = frameWord msg n b k.val := by
  fin_cases k <;> rfl

/-- LOAD in either mode, in terms of the block it loads. -/
theorem engineStep_of_load {s : State} (hp : s.dev.phase = .load)
    (hr : s.dev.mode = .hash → s.dev.frameReady s.params = true) : ∃ t, engineStep s = .next t ∧
      (∀ k : Fin 16, fileRead t.dev.W k.val = fileRead (s.dev.sourceBlock s.params) k.val) ∧
      (∀ j : Nat, 16 ≤ j → fileRead t.dev.W j = fileRead s.dev.W j) ∧
      t = s.withDev { s.dev with W := t.dev.W, cnt := 16, phase := .expand } := by
  have words := fileRead_loadWords s.dev.W (s.dev.sourceBlock s.params)
  refine ⟨_, engineStep_of_micro (micro_of_load hp hr), fun k => ?_, fun j hj => ?_, rfl⟩
  · exact (words k.val).trans (if_pos k.isLt)
  · exact (words j).trans (if_neg (Nat.not_lt.2 hj))

/-- Settles O29: one step in both modes, whose block is M or the framed block. -/
theorem loadBringsTheBlockIn : Obligations.LoadBringsTheBlockIn := by
  unfold Obligations.LoadBringsTheBlockIn
  refine fun s _ hp => ⟨fun hm => ?_, fun hm hn hfits hblk => ?_⟩
  · have source : s.dev.sourceBlock s.params = s.dev.M := by rw [Device.sourceBlock, hm]
    obtain ⟨t, ht, words, rest⟩ := engineStep_of_load hp (by simp [hm])
    refine ⟨t, ht, fun k => ?_, rest⟩
    rw [words, source]
    exact fileRead_lt _ _ k.isLt
  · have source : s.dev.sourceBlock s.params =
        frameBlock (memRead s.params s.dev.msgmem) s.dev.msgLen.toNat s.dev.blk.toNat := by rw [Device.sourceBlock, hm]
    have ready : s.dev.frameReady s.params = true := by
      simp only [Device.frameReady, hn, hfits, hblk, decide_true, Bool.and_self]
    obtain ⟨t, ht, words, rest⟩ := engineStep_of_load hp fun _ => ready
    exact ⟨t, ht, fun k => by rw [words, source, fileRead_frameBlock], rest⟩

/-! ## FOLD (43_compression.md R252) -/

theorem micro_of_fold (p : Params) {d : Device} (hp : d.phase = .fold) : d.micro p = .ok d.microFold := by
  rw [Device.micro, hp]

theorem foldHash_eq_getElem (H : Vector Word 8) (v : WorkVars) :
    foldHash H v = #v[H[0] + v.a, H[1] + v.b, H[2] + v.c, H[3] + v.d, H[4] + v.e, H[5] + v.f, H[6] + v.g, H[7] + v.h] := by
  simp [foldHash, fileRead_lt]

theorem microFold_of_more {d : Device} (h : d.mode = .hash ∧ d.blk + 1 < d.nblk) :
    d.microFold = { d with H := foldHash d.H d.wv, blk := d.blk + 1, phase := .load } :=
  if_pos ((moreBlocks_iff d).2 h)

theorem microFold_of_last {d : Device} (h : ¬(d.mode = .hash ∧ d.blk + 1 < d.nblk)) :
    d.microFold = { d with H := foldHash d.H d.wv, busy := false, done := true, phase := .idle } :=
  if_neg (mt (moreBlocks_iff d).1 h)

/-- With DONE set the interrupt output is its enable (60_exceptions.md R305). -/
theorem irq_of_done {d : Device} (h : d.done = true) : d.irq = d.ie := by
  rw [Device.irq, h, Bool.true_or, Bool.and_true]

/-- Settles O32: the two branches of FOLD, and the interrupt output where DONE is set. -/
theorem foldAddsIntoTheHashState : Obligations.FoldAddsIntoTheHashState := by
  unfold Obligations.FoldAddsIntoTheHashState
  intro s _ hp h v h'
  have made := engineStep_of_micro (micro_of_fold s.params hp)
  have folded : foldHash s.dev.H s.dev.wv = h' := foldHash_eq_getElem h v
  refine ⟨fun more => ?_, fun last => ⟨?_, irq_of_done rfl⟩⟩
  · rw [made, microFold_of_more more, folded]
  · rw [made, microFold_of_last last, folded]

/-! ## The sequencer (43_compression.md R254) -/

/-- Of the HOST's events but reset, only an accepted COMPRESS or HASH moves the sequencer. -/
theorem HostWrites.sequencer_stays_or_starts {p : Params} {d d' : Device} {e : HostEvent} (hw : HostWrites p d e d')
    (hr : e ≠ .reset) :
    (d'.phase = d.phase ∧ d'.cnt = d.cnt ∧ d'.blk = d.blk) ∨
    (d.busy = false ∧ (e = commandEvent .compress ∨ e = commandEvent .hash) ∧
      d'.phase = .load ∧ d'.cnt = 0 ∧ d'.blk = 0) := by
  cases hw with
  | reset => exact absurd rfl hr
  | compress hb => exact .inr ⟨hb, .inl rfl, rfl, rfl, rfl⟩
  | hash hb => exact .inr ⟨hb, .inr rfl, rfl, rfl, rfl⟩
  | _ => exact .inl ⟨rfl, rfl, rfl⟩

/-- Settles O33: the rows of the table are the cases of a micro-step, where FOLD leaves the CNT = 0 of the invariant. -/
theorem sequencerFollowsItsTable : Obligations.SequencerFollowsItsTable := by
  unfold Obligations.SequencerFollowsItsTable
  refine ⟨fun p d e hi hb h => ?_, fun s t e h hr => (hostEvent_writes h).sequencer_stays_or_starts hr⟩
  have cnt0 : d.phase = .fold → d.cnt = 0 := fun hp => hi.counter (.inr (.inl hp))
  rcases micro_cases h with ⟨hp, -, rfl⟩ | ⟨hp, -, hc, rfl⟩ | ⟨hp, hc, rfl⟩ | ⟨hp, hc, rfl⟩ | ⟨hp, hc, rfl⟩ |
    ⟨hp, ⟨hm, hlt⟩, rfl⟩ | ⟨hp, hl, rfl⟩
  · exact .inl ⟨hp, rfl, rfl, rfl, hb⟩
  · exact .inr (.inl ⟨hp, hc, hp, rfl, rfl, hb⟩)
  · exact .inr (.inr (.inl ⟨hp, hc, rfl, rfl, rfl, hb⟩))
  · exact .inr (.inr (.inr (.inl ⟨hp, hc, hp, rfl, rfl, hb⟩)))
  · exact .inr (.inr (.inr (.inr (.inl ⟨hp, hc, rfl, rfl, rfl, hb⟩))))
  · exact .inr (.inr (.inr (.inr (.inr (.inl ⟨hp, hm, hlt, rfl, cnt0 hp, rfl, hb⟩)))))
  · exact .inr (.inr (.inr (.inr (.inr (.inr ⟨hp, hl, rfl, cnt0 hp, rfl, rfl, rfl⟩)))))

/-! ## ROUND (43_compression.md R248) -/

theorem micro_of_round (p : Params) {d : Device} (hp : d.phase = .round) : d.micro p = .ok d.microRound := by
  rw [Device.micro, hp]

theorem microRound_of_lt {d : Device} (h : d.cnt.toNat < 63) :
    d.microRound = { d with wv := roundVars d.W d.wv d.cnt.toNat, cnt := d.cnt + 1 } := if_pos h

theorem microRound_of_last {d : Device} (h : d.cnt.toNat = 63) :
    d.microRound = { d with wv := roundVars d.W d.wv d.cnt.toNat, cnt := 0, phase := .fold } := if_neg h.not_lt

/-- T1 and T2 with the library's rotation. -/
theorem temp1_eq_rotateRight (W : Vector Word 64) (v : WorkVars) (j : Nat) : temp1 W v j =
    v.h + (v.e.rotateRight 6 ^^^ v.e.rotateRight 11 ^^^ v.e.rotateRight 25) +
      ((v.e &&& v.f) ^^^ (~~~v.e &&& v.g)) + K j + fileRead W j := by
  rw [temp1, bsig1_eq_rotateRight, ch]

theorem temp2_eq_rotateRight (v : WorkVars) : temp2 v =
    (v.a.rotateRight 2 ^^^ v.a.rotateRight 13 ^^^ v.a.rotateRight 22) +
      ((v.a &&& v.b) ^^^ (v.a &&& v.c) ^^^ (v.b &&& v.c)) := by
  rw [temp2, bsig0_eq_rotateRight, maj]

/-- Settles O31: the two branches of ROUND, with T1 and T2 written out. -/
theorem roundUpdatesTheWorkingVariables : Obligations.RoundUpdatesTheWorkingVariables := by
  unfold Obligations.RoundUpdatesTheWorkingVariables
  intro s _ hp v t1 t2 v'
  have made := engineStep_of_micro (micro_of_round s.params hp)
  have vars : roundVars s.dev.W s.dev.wv s.dev.cnt.toNat = v' := by
    rw [roundVars, temp1_eq_rotateRight, temp2_eq_rotateRight]
  refine ⟨fun hlt => ?_, fun hlast => ?_⟩
  · rw [made, microRound_of_lt hlt, vars]
  · rw [made, microRound_of_last hlast, vars]

/-! ## Choose and majority (43_compression.md R246, R247) -/

theorem getLsbD_ch (e f g : Word) {i : Nat} (hi : i < 32) :
    (ch e f g).getLsbD i = if e.getLsbD i then f.getLsbD i else g.getLsbD i := by
  simp only [ch, BitVec.getLsbD_xor, BitVec.getLsbD_and, BitVec.getLsbD_not, hi, decide_true, Bool.true_and]
  cases e.getLsbD i <;> simp

/-- The Boolean majority counts its true arguments. -/
theorem bool_majority (x y z : Bool) :
    ((x && y) ^^ (x && z) ^^ (y && z)) = decide (2 ≤ x.toNat + y.toNat + z.toNat) := by
  revert x y z
  decide

theorem getLsbD_maj (a b c : Word) (i : Nat) : (maj a b c).getLsbD i =
    decide (2 ≤ (a.getLsbD i).toNat + (b.getLsbD i).toNat + (c.getLsbD i).toNat) := by
  simp only [maj, BitVec.getLsbD_xor, BitVec.getLsbD_and, bool_majority]

/-- Settles O54: the two functions bit by bit, and the listed values by evaluation. -/
theorem chooseAndMajorityAreBitwise : Obligations.ChooseAndMajorityAreBitwise := by
  unfold Obligations.ChooseAndMajorityAreBitwise
  exact ⟨fun e f g i => getLsbD_ch e f g i.isLt, fun a b c i => getLsbD_maj a b c i.val, by decide⟩

/-! ## The digest (43_compression.md R262) -/

/-- The bytes of a list of words, each word big-endian. -/
def bytesOfWords (xs : List Word) : List Byte := xs.flatMap fun x => [byteOf 0 x, byteOf 1 x, byteOf 2 x, byteOf 3 x]

theorem digestBytes_eq_bytesOfWords (H : Vector Word 8) : digestBytes H = bytesOfWords H.toList := rfl

theorem bytesOfWords_cons (x : Word) (xs : List Word) :
    bytesOfWords (x :: xs) = [byteOf 0 x, byteOf 1 x, byteOf 2 x, byteOf 3 x] ++ bytesOfWords xs := rfl

theorem length_bytesOfWords (xs : List Word) : (bytesOfWords xs).length = 4 * xs.length := by
  induction xs with
  | nil => rfl
  | cons x xs ih => simp only [bytesOfWords_cons, List.length_append, ih, List.length_cons, List.length_nil]; omega

/-- Byte k of word i lies at 4i + k. -/
theorem getElem?_bytesOfWords (xs : List Word) (i : Nat) (k : Fin 4) :
    (bytesOfWords xs)[4 * i + k.val]? = xs[i]?.map (byteOf k.val) := by
  induction xs generalizing i with
  | nil => rfl
  | cons x xs ih =>
    rw [bytesOfWords_cons]
    cases i with
    | zero => fin_cases k <;> rfl
    | succ i =>
      have later : 4 * (i + 1) + k.val - 4 = 4 * i + k.val := by omega
      rw [List.getElem?_append_right (by simp only [List.length_cons, List.length_nil]; omega)]
      exact (congrArg _ later).trans (ih i)

/-- Settles O59: four bytes for each of the eight words, at four times its index. -/
theorem digestBytesAreBigEndianWords : Obligations.DigestBytesAreBigEndianWords := by
  unfold Obligations.DigestBytesAreBigEndianWords
  intro H
  rw [digestBytes_eq_bytesOfWords]
  refine ⟨by rw [length_bytesOfWords, Vector.length_toList], fun i k => ?_⟩
  rw [getElem?_bytesOfWords, Vector.getElem?_toList, Vector.getElem?_eq_getElem i.isLt]
  rfl

end Sys2Proof.Machine
end

section
/-! PROOFS. The constant tables (44_constants.md R282): the listed primes are the sieve's, and each table word is the
fraction of a root whose whole part is a single digit. -/

namespace Sys2Proof.Machine

/-! ## The primes -/

/-- Trial division needs no divisor from the square root on. -/
theorem prime_iff_no_divisor_below {b q : Nat} (hq : q < b ^ 2) :
    Nat.Prime q ↔ 2 ≤ q ∧ ∀ m < b, 2 ≤ m → m < q → ¬ m ∣ q := by
  constructor
  · intro prime
    obtain ⟨two, noDivisor⟩ := Nat.prime_def_lt'.mp prime
    exact ⟨two, fun m _ => noDivisor m⟩
  · rintro ⟨two, noDivisor⟩
    refine Nat.prime_def_le_sqrt.mpr ⟨two, fun m hm hroot => noDivisor m ?_ hm ?_⟩
    · exact hroot.trans_lt (Nat.sqrt_lt'.mpr hq)
    · exact hroot.trans_lt (Nat.sqrt_lt_self two)

/-- The numbers up to 311, all below 18², sieved by trial division. -/
theorem firstPrimes_eq_sieve :
    firstPrimes = (List.range 312).filter fun q => 2 ≤ q ∧ ∀ m < 18, 2 ≤ m → m < q → ¬ m ∣ q := by decide

theorem prime_iff_mem_firstPrimes {q : Nat} (hq : q ≤ 311) : Nat.Prime q ↔ q ∈ firstPrimes := by
  have inRange : q < 312 := by omega
  rw [prime_iff_no_divisor_below (b := 18) (by omega), firstPrimes_eq_sieve, List.mem_filter, List.mem_range,
    decide_eq_true_iff]
  exact (and_iff_right inRange).symm

theorem firstPrimes_increasing : firstPrimes.Pairwise (· < ·) := by
  rw [firstPrimes_eq_sieve]
  exact List.pairwise_lt_range.filter _

/-! ## The roots -/

/-- Scaled by 2^32, a root is its whole part followed by the 32 bits of its fraction, which the reduction keeps. -/
theorem exists_root_mod_eq_fraction {n x a : Nat} {w : Word} (lower : (a * 2 ^ 32 + w.toNat) ^ n ≤ x)
    (upper : x < (a * 2 ^ 32 + w.toNat + 1) ^ n) : ∃ r, r ^ n ≤ x ∧ x < (r + 1) ^ n ∧ w.toNat = r % 2 ^ 32 :=
  ⟨a * 2 ^ 32 + w.toNat, lower, upper, by have := w.isLt; omega⟩

theorem K_is_fraction_of_cubeRoot : ∀ j : Fin 64, ∃ a < 7,
    (a * 2 ^ 32 + (K j.val).toNat) ^ 3 ≤ firstPrimes.getD j.val 0 * 2 ^ 96 ∧
      firstPrimes.getD j.val 0 * 2 ^ 96 < (a * 2 ^ 32 + (K j.val).toNat + 1) ^ 3 := by decide

theorem initialHash_is_fraction_of_squareRoot : ∀ i : Fin 8, ∃ a < 5,
    (a * 2 ^ 32 + (initialHash[i]).toNat) ^ 2 ≤ firstPrimes.getD i.val 0 * 2 ^ 64 ∧
      firstPrimes.getD i.val 0 * 2 ^ 64 < (a * 2 ^ 32 + (initialHash[i]).toNat + 1) ^ 2 := by decide

/-- Settles O60: the primes by the sieve, each table word as the fraction of its root. -/
theorem constantsAreRootsOfPrimes : Obligations.ConstantsAreRootsOfPrimes := by
  unfold Obligations.ConstantsAreRootsOfPrimes
  refine ⟨rfl, fun q hq => prime_iff_mem_firstPrimes hq, firstPrimes_increasing, fun j => ?_, fun i => ?_⟩
  · obtain ⟨_, _, lower, upper⟩ := K_is_fraction_of_cubeRoot j
    exact exists_root_mod_eq_fraction lower upper
  · obtain ⟨_, _, lower, upper⟩ := initialHash_is_fraction_of_squareRoot i
    exact exists_root_mod_eq_fraction lower upper

end Sys2Proof.Machine
end

section
/-! PROOFS. Exceptions (60_exceptions.md R293, R300, R305): which bus accesses are refused, that nothing else stops the
machine, and the interrupt output. -/

namespace Sys2Proof.Machine

/-! ## The host contract (60_exceptions.md R300) -/

/-- A list of clauses names a broken one exactly when its first clause is broken or the later ones name one. -/
theorem exists_ite_eq_some_iff {α : Type} {c : Prop} [Decidable c] {x : α} {later : Option α} :
    (∃ y, (if c then some x else later) = some y) ↔ c ∨ ∃ y, later = some y := by
  split <;> simp [*]

theorem exists_violation_iff_of_reg {p : Params} {b : BusAccess} (h : b.space = .reg) :
    (∃ why, b.violation p = some why) ↔ b.width ≠ 32 ∨ b.addr % 4 ≠ 0 ∨ 0x1000 ≤ b.addr := by
  simp only [BusAccess.violation, h, exists_ite_eq_some_iff, reduceCtorEq, exists_false, or_false]
  rw [or_comm (a := 0x1000 ≤ b.addr)]

theorem exists_violation_iff_of_mem {p : Params} {b : BusAccess} (h : b.space = .mem) :
    (∃ why, b.violation p = some why) ↔ b.width ≠ 8 ∨ p.msgMemBytes.toNat ≤ b.addr ∨
      ∃ data, b.op = .write data ∧ 255 < data.toNat := by
  cases hop : b.op with
  | read => simp only [BusAccess.violation, h, hop, exists_ite_eq_some_iff, reduceCtorEq, exists_false, false_and]
  | write data =>
    simp only [BusAccess.violation, h, hop, exists_ite_eq_some_iff, reduceCtorEq, exists_false, or_false,
      BusOp.write.injEq, exists_eq_left']

/-- A bus access is refused by exactly the clause of the host contract it breaks. -/
theorem busStep_eq_refused_iff {b : BusAccess} {s : State} {why : BusViolation} :
    busStep b s = .refused (.hostContract why) ↔ b.violation s.params = some why := by
  refine ⟨fun h => ?_, busStep_of_breaks⟩
  rcases hostEvent_stops (.access b) s with ⟨u, hu⟩ | ⟨b', why', hb, hv, hr⟩
  · cases h.symm.trans hu
  · cases hb
    cases h.symm.trans hr
    exact hv

/-- Settles O5: the refusals are the violations, counted space by space, and an encoding within the contract decodes. -/
theorem busAccessesOutsideTheContractAreRefused : Obligations.BusAccessesOutsideTheContractAreRefused := by
  unfold Obligations.BusAccessesOutsideTheContractAreRefused
  refine fun b s => ⟨?_, ?_⟩
  · simp only [busStep_eq_refused_iff]
    cases h : b.space
    · simp only [exists_violation_iff_of_reg h, reduceCtorEq, true_and, false_and, or_false]
    · simp only [exists_violation_iff_of_mem h, reduceCtorEq, true_and, false_and, false_or]
  · rintro t ht rfl
    rw [busStep, decode_encode_transaction ht]

/-! ## What stops the machine (60_exceptions.md R293, R300) -/

/-- From the invariant a step goes on, or it is a HOST access that breaks the host contract and is refused by name. -/
theorem MachineInv.step_stops {s : State} (hi : MachineInv s) :
    (∃ t, step s = .next t) ∨
    (∃ s' b rest why, chooseAgent s = some (.host, s') ∧ s'.pending = .access b :: rest ∧
      b.violation s.params = some why ∧ step s = .refused (.hostContract why)) := by
  rcases chooseAgent_cases s with ⟨hc, -, -⟩ | ⟨a, s', hc, hd, hpa, hp, -, pending, busy⟩
  · exact .inl ⟨s, by simp only [step, agentStep, hc]⟩
  · cases a with
    | engine =>
      obtain ⟨d, hm⟩ := hi.device.exists_micro (busy rfl)
      rw [← hd, ← hpa] at hm
      exact .inl ⟨s'.withDev d, by simp only [step, agentStep, hc, engineStep_of_micro hm]⟩
    | host =>
      obtain ⟨e, rest, he⟩ := List.exists_cons_of_ne_nil (pending rfl)
      have oldest : s'.pending = e :: rest := hp.trans he
      rw [step_of_host hc oldest]
      rcases hostEvent_stops e (s'.withPending rest) with goesOn | ⟨b, why, rfl, hv, hr⟩
      · exact .inl goesOn
      · exact .inr ⟨s', b, rest, why, hc, oldest, hpa ▸ hv, hr⟩

/-- Settles O36: a step from the invariant has one of the two outcomes, neither of them a fault. -/
theorem onlyContractViolationsStopTheMachine : Obligations.OnlyContractViolationsStopTheMachine := by
  unfold Obligations.OnlyContractViolationsStopTheMachine
  intro s hi
  rcases hi.step_stops with ⟨t, ht⟩ | ⟨s', b, rest, why, hc, hp, hv, hr⟩
  · simp [ht]
  · refine ⟨by simp [hr], fun r h => ⟨s', b, rest, why, hc, hp, hv, ?_⟩⟩
    simpa using h.symm.trans hr

/-! ## The interrupt output (60_exceptions.md R305) -/

theorem irq_iff (d : Device) : d.irq = true ↔ d.ie = true ∧ (d.done = true ∨ d.err ≠ .none) := by
  simp only [Device.irq, Bool.and_eq_true, Bool.or_eq_true, bne_iff_ne]

/-- Bit 12 of STATUS is the interrupt output (10_state.md R38). -/
theorem statusWord_irq (d : Device) : d.statusWord.getLsbD 12 = d.irq := by
  obtain ⟨-, -, fields⟩ := statusWordHasItsLayout
  obtain ⟨-, -, -, -, -, -, field, -⟩ := fields d
  calc d.statusWord.getLsbD 12
    _ = (d.statusWord.extractLsb' 12 1).getLsbD 0 := by simp
    _ = d.irq := by cases h : d.irq <;> simp [field, h]

/-- Settles O18: the condition, its bit of STATUS, and a read of STATUS by the register map, which leaves the device. -/
theorem interruptFollowsItsCondition : Obligations.InterruptFollowsItsCondition := by
  unfold Obligations.InterruptFollowsItsCondition
  exact ⟨irq_iff, statusWord_irq, fun s => ⟨_, perform_rd_offset .status s, rfl⟩⟩

end Sys2Proof.Machine
end

section
/-! PROOFS. Reset, scheduling and hazards (70_reset_and_hazards.md R330, R345, R347): which agent comes next, that
`WAIT` ends where the ENGINE is scheduled, and what reset sets. -/

namespace Sys2Proof.Machine

/-! ## Which agent comes next (70_reset_and_hazards.md R345) -/

/-- Where the ENGINE is to move, the step is the ENGINE's. -/
theorem step_of_engine {s s' : State} (hc : chooseAgent s = some (.engine, s')) : step s = engineStep s' := by
  simp only [step, agentStep, hc]

theorem chooseAgent_nobody {s : State} (hb : s.dev.busy = false) (hp : s.pending = []) : chooseAgent s = none := by
  simp only [chooseAgent, hb, hp]

theorem chooseAgent_engine_alone {s : State} (hb : s.dev.busy = true) (hp : s.pending = []) :
    chooseAgent s = some (.engine, s) := by
  simp only [chooseAgent, hb, hp]

section
variable {s : State} {e : HostEvent} {rest : List HostEvent} (hb : s.dev.busy = true) (hp : s.pending = e :: rest)
include hb hp

/-- Where both agents have a step, the next turn says whose it is (00_scope.md R16). -/
theorem chooseAgent_of_turn {a : Agent} {ts : List Agent} (ht : s.turns = a :: ts) :
    chooseAgent s = some (a, { s with turns := ts }) := by
  simp only [chooseAgent, hb, hp, ht]

/-- Where both agents have a step and the turns are used up, the free value says whose it is (log 3). -/
theorem chooseAgent_of_no_turns (ht : s.turns = []) :
    chooseAgent s = some (Config.schedule s.tick, { s with tick := s.tick + 1 }) := by
  simp only [chooseAgent, hb, hp, ht]

end

/-- Settles O6: the step follows the choice of the agent, and a free choice is one of the two agents. -/
theorem eitherAgentMayComeNext : Obligations.EitherAgentMayComeNext := by
  unfold Obligations.EitherAgentMayComeNext
  refine ⟨?nobody, ?hostAlone, ?engineAlone, ?hostTurn, ?engineTurn, ?noTurns⟩
  case nobody => exact fun s hb hp => by simp only [step, agentStep, chooseAgent_nobody hb hp]
  case hostAlone => exact fun s e rest hb hp => step_of_host (chooseAgent_idle hb hp) hp
  case engineAlone => exact fun s hb hp => step_of_engine (chooseAgent_engine_alone hb hp)
  case hostTurn => exact fun s e rest ts hb hp ht => step_of_host (chooseAgent_of_turn hb hp ht) hp
  case engineTurn => exact fun s e rest ts hb hp ht => step_of_engine (chooseAgent_of_turn hb hp ht)
  case noTurns =>
    intro s e rest hb hp ht
    have free := chooseAgent_of_no_turns hb hp ht
    cases ha : Config.schedule s.tick <;> rw [ha] at free
    · exact .inl (step_of_host free hp)
    · exact .inr (step_of_engine free)

/-! ## WAIT and fairness (70_reset_and_hazards.md R347) -/

/-- Some number of steps from s answers an idle machine that has only `rest` pending. -/
def State.WaitEnds (s : State) (rest : List HostEvent) : Prop :=
  ∃ (k : Nat) (t : State), Sys2Proof.core.run k s = .next t ∧ t.pending = rest ∧ t.dev.busy = false

theorem State.WaitEnds.of_step {s u : State} {rest : List HostEvent} (h : step s = .next u) (hu : u.WaitEnds rest) :
    s.WaitEnds rest := by
  obtain ⟨k, t, hrun, ht⟩ := hu
  exact ⟨k + 1, t, (core_run_succ h).trans hrun, ht⟩

/-- A machine that is idle answers the poll by ending the wait (30_encoding.md R122). -/
theorem waitEnds_of_idle {s : State} {rest : List HostEvent} (hb : s.dev.busy = false)
    (hp : s.pending = .wait :: rest) : s.WaitEnds rest := by
  have poll := step_of_host (chooseAgent_idle hb hp) hp
  rw [waitPollsStatusUntilIdle] at poll
  exact .of_step poll ⟨0, _, core_run_zero _, by simp [hb], hb⟩

/-- A turn of a running command with `WAIT` pending leaves `WAIT` pending, and one step fewer of the command where the
turn is the ENGINE's. -/
theorem exists_step_of_waiting_turn {s : State} {rest : List HostEvent} {a : Agent} {ts : List Agent}
    (hi : MachineInv s) (hb : s.dev.busy = true) (hp : s.pending = .wait :: rest) (ht : s.turns = a :: ts) :
    ∃ u, step s = .next u ∧ u.pending = .wait :: rest ∧ u.turns = ts ∧
      u.dev.stepsLeft + [a].count .engine = s.dev.stepsLeft := by
  have turn := chooseAgent_of_turn hb hp ht
  cases a with
  | host =>
    have poll := step_of_host turn hp
    rw [waitPollsStatusUntilIdle] at poll
    exact ⟨_, poll, if_pos hb, rfl, rfl⟩
  | engine =>
    obtain ⟨d, hm⟩ := hi.device.exists_micro hb
    exact ⟨_, (step_of_engine turn).trans (engineStep_of_micro hm), hp, rfl, micro_stepsLeft hi.device hb hm⟩

/-- The wait ends by induction on the turns: each of the ENGINE's uses up one of the steps left, and with none left the
machine is idle. -/
theorem waitEnds_of_turns {ts : List Agent} {s : State} {rest : List HostEvent} (hi : MachineInv s)
    (hp : s.pending = .wait :: rest) (ht : s.turns = ts) (fair : s.dev.stepsLeft ≤ ts.count .engine) :
    s.WaitEnds rest := by
  induction ts generalizing s with
  | nil => exact waitEnds_of_idle (hi.device.stepsLeft_eq_zero_iff.1 (Nat.le_zero.1 fair)) hp
  | cons a ts ih =>
    cases hb : s.dev.busy with
    | false => exact waitEnds_of_idle hb hp
    | true =>
      obtain ⟨u, hu, hpu, htu, left⟩ := exists_step_of_waiting_turn hi hb hp ht
      have fewer : u.dev.stepsLeft ≤ ts.count .engine := by
        rw [List.count_cons] at fair
        rw [List.count_singleton] at left
        omega
      exact .of_step hu (ih (stepKeepsTheInvariant s u hi hu) hpu htu fewer)

/-- Settles O46: the turns to come are enough for the steps left. -/
theorem waitEndsWhenTheEngineIsScheduled : Obligations.WaitEndsWhenTheEngineIsScheduled := by
  unfold Obligations.WaitEndsWhenTheEngineIsScheduled
  exact fun s rest hi hp fair => waitEnds_of_turns hi hp rfl fair

/-! ## Reset (70_reset_and_hazards.md R330) -/

theorem hostEvent_reset (s : State) : hostEvent .reset s = .next (s.withDev s.dev.reset) := rfl

/-- After reset IE = 0, so the interrupt output is off (60_exceptions.md R305). -/
theorem irq_reset (d : Device) : d.reset.irq = false := by
  simp only [Device.irq, Device.reset_ie, Bool.false_and]

/-- Settles O27: the state after reset is the state with the device reset, read field by field. -/
theorem resetSetsEveryElementButMemory : Obligations.ResetSetsEveryElementButMemory := by
  unfold Obligations.ResetSetsEveryElementButMemory
  intro s
  refine ⟨_, hostEvent_reset s, ?_⟩
  simp [irq_reset, initialHash]

end Sys2Proof.Machine
end
